-- ==== Sys2Proof/Word.lean ====
section
/-! DEFINITION. The word types of the block (00_scope.md R9): unsigned integers whose arithmetic wraps. -/

namespace Sys2Proof

/-- `u8`, the width of every access the block makes (20_memory.md R83). -/
abbrev Byte := BitVec 8

/-- `u16`, the width of the SETUP fields wValue, wIndex and wLength (30_encoding.md R110). -/
abbrev Half := BitVec 16

/-- `u7`, the width of a USB device address (10_state.md R48). -/
abbrev DevAddr := BitVec 7

/-- `uFRAME_W` with FRAME_W = 11 (00_scope.md R8): a frame number. -/
abbrev Frame := BitVec 11

/-- An endpoint number 0..N_EP with N_EP = 4 (00_scope.md R8, 20_memory.md R81). -/
abbrev EpNum := Fin 5

end Sys2Proof
end

