-- ==== Sys2Proof/Machine/Memory.lean ====
section
/-! DEFINITION. The addressed memory spaces of 20_memory.md R80 as plain data: cells (address, byte) in one canonical
form, addresses strictly rising and no cell equal to what an unlisted address reads as. -/

namespace Sys2Proof.Machine

/-- The contents of one addressed space. -/
abbrev Memory := List Host.Cell

/-- What an unlisted address reads as: 0. DESIGN CHOICE, unsafe: the spec leaves the power-on bytes of RAW and CSTATE
unspecified (log 15). -/
def unlistedByte : Byte := 0

/-- Read one byte. -/
def memRead : Memory → Nat → Byte
  | [], _ => unlistedByte
  | (a', b) :: m, a => if a' = a then b else memRead m a

/-- Write one byte, keeping the canonical form. -/
def memWrite : Memory → Nat → Byte → Memory
  | [], a, b => if b = unlistedByte then [] else [(a, b)]
  | (a', b') :: m, a, b =>
    if a < a' then (if b = unlistedByte then (a', b') :: m else (a, b) :: (a', b') :: m)
    else if a = a' then (if b = unlistedByte then m else (a, b) :: m)
    else (a', b') :: memWrite m a b

/-- Write the bytes of a list at increasing addresses from `a` (00_scope.md R10, `MemWrite`). -/
def memWriteList : Memory → Nat → List Byte → Memory
  | m, _, [] => m
  | m, a, b :: bs => memWriteList (memWrite m a b) (a + 1) bs

/-- The first `n` bytes, in increasing address order (`MemRead(space, 0, n)`). -/
def memBytes (m : Memory) (n : Nat) : List Byte := (List.range n).map (memRead m)

/-- The space whose first bytes are the given ones. -/
def memOfBytes (bs : List Byte) : Memory := memWriteList [] 0 bs

/-- The canonical form above a lower bound on the addresses. -/
def memWfFrom : Nat → Memory → Bool
  | _, [] => true
  | lo, (a, b) :: m => decide (lo ≤ a) && b != unlistedByte && memWfFrom (a + 1) m

/-- The canonical form. -/
def Memory.wf (m : Memory) : Bool := memWfFrom 0 m

end Sys2Proof.Machine
end

