-- ==== Sys2Proof/Config.lean ====
section
/-! DEFINITION. The implementation parameters of 00_scope.md R8: the fixed ones as constants, the OPEN ones as the
record `Params` (a read-only part of the state, 10_state.md R42, R43), and the free values as constants with no body. -/

namespace Sys2Proof

/-- The endpoint types of 10_state.md R45. -/
inductive EpType where
  | control | isochronous | bulk | interrupt
deriving DecidableEq, Repr

/-- The endpoint directions of 10_state.md R45. -/
inductive EpDir where
  | dirIn | dirOut
deriving DecidableEq, Repr

/-- The number of banks of an endpoint: 1 or 2 (10_state.md R45, 30_encoding.md R119). -/
inductive Banks where
  | one | two
deriving DecidableEq, Repr

/-- An EndpointConfig of 30_encoding.md R119. -/
structure EndpointConfig where
  enabled : Bool
  type : EpType
  direction : EpDir
  banks : Banks
  size : Nat
  alloc : Bool
deriving DecidableEq, Repr

/-- A DescriptorEntry of 30_encoding.md R117; its `len` is the length of `data`. -/
structure DescriptorEntry where
  value : Half
  index : Half
  data : List Byte
deriving DecidableEq, Repr

/-- The affine transform of one report axis byte (44_decoder.md R336): `scale * c[src] + offset` modulo 256. -/
structure AxisMap where
  src : Fin 8
  scale : Byte
  offset : Byte
deriving DecidableEq, Repr

/-- A Boolean function of the decoded state as plain data: a decision tree over bits of the eight CState bytes, each
node asking one bit. Every function of the 64 bits is one (`BitTree.complete` of Laws/Signal.lean). -/
inductive BitTree where
  | leaf (b : Bool)
  | node (byte bit : Fin 8) (ifClear ifSet : BitTree)
deriving DecidableEq, Repr

/-- ISR_ORDER (00_scope.md R8, 60_exceptions.md R373). -/
inductive IsrOrder where
  | devFirst | epFirst | either
deriving DecidableEq, Repr

/-- The six axis transforms of REMAP, one per axis byte of JoypadReport (30_encoding.md R120, bytes 2 to 7). -/
structure AxisMaps where
  x : AxisMap
  y : AxisMap
  z : AxisMap
  rx : AxisMap
  ry : AxisMap
  rz : AxisMap
deriving DecidableEq, Repr

/-- The twelve button and four padding bits of REMAP: report bytes 0 and 1 (30_encoding.md R120), bit k at position k. -/
structure ButtonMaps where
  byte0 : Vector BitTree 8
  byte1 : Vector BitTree 8
deriving DecidableEq, Repr

/-- The parameters of 00_scope.md R8 that are OPEN, or settable (`zlpAfterFull`, 90_conflicts.md C12).
`epTable` holds entry e at position e - 1, for e in 1..4. -/
structure Params where
  epTable : Vector EndpointConfig 4
  reportEp : EpNum
  idleDefault : Byte
  sendBudget : Frame
  descTable : List DescriptorEntry
  zlpAfterFull : Bool
  buttons : ButtonMaps
  axes : AxisMaps
  joyYIn : Fin 8
  joyYOut : Fin 8
  reportInit : List Byte
  isrOrder : IsrOrder
deriving DecidableEq, Repr

namespace Config

/-- EP0_SIZE: bytes per endpoint-0 bank (00_scope.md R8). -/
def ep0Size : Nat := 32

/-- REPORT_SIZE: bytes of JoypadReport. -/
def reportSize : Nat := 8

/-- STATE_SIZE: bytes of the decoded record. -/
def stateSize : Nat := 8

/-- RAW_SIZE: bytes of RawControllerBuffer, 4 * STATE_SIZE. -/
def rawSize : Nat := 32

/-- SYNC: the expected first raw byte. -/
def sync : Byte := 0x11

/-- VOTE_T: the popcount threshold of a nibble. -/
def voteT : Nat := 2

/-- DESC_MAX: the clamp on a GET_DESCRIPTOR transfer. -/
def descMax : Nat := 255

/-- The `k`-th byte the bus sampler delivers at draw `n` (44_decoder.md R335; 93_implementation_defined.md U9): free (log 9). -/
opaque samplerByte : Nat → Nat → Byte

/-- The byte a FIFO_READ of an empty FIFO returns at draw `n` (40_port.md R155; U3): free (log 21). -/
opaque emptyFifoByte : Nat → Byte

/-- Whether a pending interrupt is entered before the next MAIN step, at draw `n` (60_exceptions.md R371; U19): free (log 9). -/
opaque enterNow : Nat → Bool

/-- With ISR_ORDER = EITHER and both sources pending, whether DEV_ISR is entered first, at draw `n` (R373; U17): free (log 9). -/
opaque devFirst : Nat → Bool

/-- Whether DELAY lasts one more MAIN step, at draw `n` (44_decoder.md R335; U20): free (log 9). -/
opaque delayMore : Nat → Bool

end Config

/-- The EP_TABLE entry of endpoint `e`; endpoint 0 has none (10_state.md R43). -/
def Params.epConfig (p : Params) (e : EpNum) : Option EndpointConfig :=
  if e.val = 0 then none else p.epTable[e.val - 1]?

/-- The constraints 00_scope.md R8, 30_encoding.md R117 and R119 put on the OPEN parameters. JOY_Y_OUT's transform is
the fixed one of 44_decoder.md R336 and is not read from `axes`. -/
def Params.valid (p : Params) : Bool :=
  (match p.epConfig p.reportEp with
    | some c => c.enabled && c.type == .interrupt && c.direction == .dirIn && decide (8 ≤ c.size)
    | none => false) &&
  p.sendBudget != 0 &&
  p.reportInit.length == 8 &&
  p.descTable.all (fun d => decide (d.data.length ≤ 255)) &&
  decide (p.descTable.Pairwise (fun d d' => (d.value, d.index) ≠ (d'.value, d'.index)))

namespace Config

/-- Endpoint configuration of the report endpoint in the example of 95_test_vectors.md section 0. -/
def exampleReportConfig : EndpointConfig :=
  { enabled := true, type := .interrupt, direction := .dirIn, banks := .one, size := 8, alloc := true }

/-- A table entry that is skipped during configuration. -/
def disabledConfig : EndpointConfig :=
  { enabled := false, type := .control, direction := .dirOut, banks := .one, size := 0, alloc := false }

/-- `n` bytes counting up from `b`: the synthetic descriptor data of 95_test_vectors.md section 0. -/
def counting (b : Byte) : Nat → List Byte
  | 0 => []
  | n + 1 => b :: counting (b + 1) n

/-- The identity transform of report byte `k`. -/
def identityAxis (k : Fin 8) : AxisMap := { src := k, scale := 1, offset := 0 }

/-- Bit `bit` of decoded byte `byte`, as it stands. -/
def copyBit (byte bit : Fin 8) : BitTree := .node byte bit (.leaf false) (.leaf true)

/-- The identity transform of button byte `k`. -/
def identityButtons (k : Fin 8) : Vector BitTree 8 := Vector.ofFn (copyBit k)

/-- The example configuration of 95_test_vectors.md section 0. DESIGN CHOICE: it stands in State.reset for the OPEN
parameters, and unsafe if a claim leans on it (log 1). -/
def exampleParams : Params :=
  { epTable := #v[disabledConfig, disabledConfig, exampleReportConfig, disabledConfig]
    reportEp := 3
    idleDefault := 0
    sendBudget := 5
    descTable :=
      [{ value := 0x0100, index := 0, data := counting 0x00 18 },
       { value := 0x0200, index := 0, data := counting 0x40 34 },
       { value := 0x2200, index := 0, data := counting 0x80 64 }]
    zlpAfterFull := true
    buttons := { byte0 := identityButtons 0, byte1 := identityButtons 1 }
    axes := { x := identityAxis 2, y := identityAxis 3, z := identityAxis 4,
              rx := identityAxis 5, ry := identityAxis 6, rz := identityAxis 7 }
    joyYIn := 3
    joyYOut := 3
    reportInit := [0, 0, 0, 0, 0, 0, 0x80, 0x80]
    isrOrder := .either }

end Config

end Sys2Proof
end

