-- ==== Sys2Proof/Syntax.lean ====
section
/-! DEFINITION. The operations of spec/opcode_table.json, one constructor per row (30_encoding.md R114, R125). -/

namespace Sys2Proof

/-- The three 16-bit fields of a SETUP packet after the two key bytes (30_encoding.md R110). -/
structure SetupArgs where
  wValue : Half
  wIndex : Half
  wLength : Half
deriving DecidableEq, Repr

/-- The UsbRequest register and a SETUP packet: 8 bytes (10_state.md R36, 30_encoding.md R110). Its fields are the
accessors of Decode.lean. -/
structure UsbRequest where
  b0 : Byte
  b1 : Byte
  b2 : Byte
  b3 : Byte
  b4 : Byte
  b5 : Byte
  b6 : Byte
  b7 : Byte
deriving DecidableEq, Repr

/-- The ONE inductive of operations. The first seven are the dispatch rows of 30_encoding.md R114 with the bits their
patterns leave free (`recipient` is bmRequestType[4:0], `dir` its bit 7, `cls` its bit 5); the rest are the operation
codes of R125 with the operands their rules give. -/
inductive Instr where
  -- SETUP requests (42_control.md)
  | setAddress (recipient : BitVec 5) (args : SetupArgs)
  | setConfiguration (recipient : BitVec 5) (args : SetupArgs)
  | clearFeature (dir : Bool) (cls : Bool) (args : SetupArgs)
  | setIdle (recipient : BitVec 5) (args : SetupArgs)
  | getDescriptor (recipient : BitVec 5) (args : SetupArgs)
  | getReport (recipient : BitVec 5) (args : SetupArgs)
  | fatalUnhandled (req : UsbRequest)
  -- EVENT: handler entry
  | devIsr
  | epIsr
  -- SUB: sub-procedures of a handler
  | eorstHandler
  | autoTick
  | autoWrite
  | setupIntake
  | descSearch (v : Half) (x : Half)
  | ctrlFifoWrite (src : List Byte) (len : Byte)
  -- OP: MAIN operations
  | send
  | reportUpdate (r : List Byte)
  | decode
  | syncCheck
  | pollCycle (raw : List Byte)
  | remap (c : List Byte)
  | vote (n : BitVec 4)
  | decodeRawByte (b : Byte)
  | decodeGroup (raw : List Byte) (i : Nat)
  -- PORT: the port primitives (40_port.md)
  | select (e : EpNum)
  | readStatus
  | ackSetup
  | commit
  | commitClr
  | fifoRead
  | fifoWrite (b : Byte)
  | stall
  | epReset
  | epConfigure (c : EndpointConfig)
  | ep0Init
  | setDevaddr (a : DevAddr)
  | readFrame
  | readDevint
  | clearDevint
  | armSetupIrq
  -- HOST: the host actions (40_port.md)
  | hBusReset
  | hSof
  | hSetup (a : DevAddr) (p : List Byte)
  | hIn (a : DevAddr) (e : EpNum)
  | hOut (a : DevAddr) (e : EpNum) (d : List Byte)
  | hDeveventOther
deriving DecidableEq, Repr

/-- The two encoding spaces of 30_encoding.md: SETUP packets (R110) and the operation codes (R125). -/
inductive OpFormat where
  | setup | code
deriving DecidableEq, Repr

end Sys2Proof
end

