-- ==== Sys2Proof/WellFormed.lean ====
section
/-! DEFINITION. When a term of Instr stands for an operation the spec's encodings admit. -/

namespace Sys2Proof

/-- Whether one of the six request patterns of 30_encoding.md R114 (the column of bmRequestType patterns and the one
of bRequest) admits the key bytes; a request none admits is row 7's. Stated by the patterns' bits, where the decoder
uses the columns match and mask. -/
def handledKey (bm br : Byte) : Bool :=
  let dir := bm.getLsbD 7
  let ty := bm.extractLsb' 5 2
  let recipient := bm.extractLsb' 0 5
  (br == 0x05 && !dir && ty == 0) ||
  (br == 0x09 && !dir && ty == 0) ||
  (br == 0x01 && (ty == 0 || ty == 1) && recipient == 2) ||
  (br == 0x0A && !dir && ty == 1) ||
  (br == 0x06 && dir && ty == 0) ||
  (br == 0x01 && dir && ty == 1)

/-- Well-formedness of an operation's operands:
GET_REPORT's recipient is not the endpoint (that key is CLEAR_FEATURE's, 90_conflicts.md C6); FATAL_UNHANDLED's key is
no row's of 1 to 6; byte lists have the lengths their rules give (R240, R296, R332, R335, R336, R173); a list whose
length the encoding carries fits its length field (log 4). -/
def Instr.wf : Instr → Bool
  | .setAddress _ _ => true
  | .setConfiguration _ _ => true
  | .clearFeature _ _ _ => true
  | .setIdle _ _ => true
  | .getDescriptor _ _ => true
  | .getReport recipient _ => recipient != 2
  | .fatalUnhandled req => !handledKey req.b0 req.b1
  | .devIsr => true
  | .epIsr => true
  | .eorstHandler => true
  | .autoTick => true
  | .autoWrite => true
  | .setupIntake => true
  | .descSearch _ _ => true
  | .ctrlFifoWrite src len => decide (src.length ≤ 255) && decide (len.toNat ≤ src.length)
  | .send => true
  | .reportUpdate r => r.length == 8
  | .decode => true
  | .syncCheck => true
  | .pollCycle raw => raw.length == 32
  | .remap c => c.length == 8
  | .vote _ => true
  | .decodeRawByte _ => true
  | .decodeGroup raw i => raw.length == 32 && decide (i < 8)
  | .select _ => true
  | .readStatus => true
  | .ackSetup => true
  | .commit => true
  | .commitClr => true
  | .fifoRead => true
  | .fifoWrite _ => true
  | .stall => true
  | .epReset => true
  | .epConfigure c => decide (c.size < 65536)
  | .ep0Init => true
  | .setDevaddr _ => true
  | .readFrame => true
  | .readDevint => true
  | .clearDevint => true
  | .armSetupIrq => true
  | .hBusReset => true
  | .hSof => true
  | .hSetup _ p => p.length == 8
  | .hIn _ _ => true
  | .hOut _ _ d => decide (d.length < 65536)
  | .hDeveventOther => true

end Sys2Proof
end

