-- ==== Sys2Proof/Decode.lean ====
section
/-! DEFINITION. The decoder of the two encoding spaces (30_encoding.md R110 to R116 and R125), total on any bytes and
rejecting by name, and after it the encoder. The order of the operands' bytes after an operation code is the model's
(log 4): R125 numbers the operations and gives their operands no bits. -/

namespace Sys2Proof

/-! ## Byte order (20_memory.md R82, 30_encoding.md R110) -/

/-- A u16 from its two bytes, the one at the lower offset first. -/
def halfOfBytes (lo hi : Byte) : Half := hi ++ lo

/-- Bits 7:0 of a u16: the byte at the lower offset. -/
def Half.lo (h : Half) : Byte := h.extractLsb' 0 8

/-- Bits 15:8 of a u16: the byte at the higher offset. -/
def Half.hi (h : Half) : Byte := h.extractLsb' 8 8

/-! ## The fields of the UsbRequest (R110) -/

/-- Byte 0: the request-type bitmap (R111). -/
def UsbRequest.bmRequestType (r : UsbRequest) : Byte := r.b0

/-- Byte 1: the request code (R112). -/
def UsbRequest.bRequest (r : UsbRequest) : Byte := r.b1

/-- Bytes 2..3. -/
def UsbRequest.wValue (r : UsbRequest) : Half := halfOfBytes r.b2 r.b3

/-- Bytes 4..5. -/
def UsbRequest.wIndex (r : UsbRequest) : Half := halfOfBytes r.b4 r.b5

/-- Bytes 6..7. -/
def UsbRequest.wLength (r : UsbRequest) : Half := halfOfBytes r.b6 r.b7

/-- The dispatch key `K = bmRequestType | (bRequest << 8)` (R113). -/
def UsbRequest.key (r : UsbRequest) : Half := halfOfBytes r.bmRequestType r.bRequest

/-- The three 16-bit fields together. -/
def UsbRequest.args (r : UsbRequest) : SetupArgs :=
  { wValue := r.wValue, wIndex := r.wIndex, wLength := r.wLength }

/-- The packet with key bytes `bm`, `br` and fields `a` (R110). -/
def UsbRequest.ofFields (bm br : Byte) (a : SetupArgs) : UsbRequest :=
  { b0 := bm, b1 := br, b2 := a.wValue.lo, b3 := a.wValue.hi, b4 := a.wIndex.lo, b5 := a.wIndex.hi,
    b6 := a.wLength.lo, b7 := a.wLength.hi }

/-- The packet's bytes in wire order. -/
def UsbRequest.bytes (r : UsbRequest) : List Byte := [r.b0, r.b1, r.b2, r.b3, r.b4, r.b5, r.b6, r.b7]

/-- `req.byte[i] <- b` (42_control.md R231). -/
def UsbRequest.setByte (r : UsbRequest) (i : Fin 8) (b : Byte) : UsbRequest :=
  match i with
  | 0 => { r with b0 := b }
  | 1 => { r with b1 := b }
  | 2 => { r with b2 := b }
  | 3 => { r with b3 := b }
  | 4 => { r with b4 := b }
  | 5 => { r with b5 := b }
  | 6 => { r with b6 := b }
  | 7 => { r with b7 := b }

/-! ## Dispatch (R113, R114) -/

/-- The seven rows of the dispatch table. -/
inductive Request where
  | setAddress | setConfiguration | clearFeature | setIdle | getDescriptor | getReport | fatal
deriving DecidableEq, Repr

/-- One row of R114: the request, its match and its mask. -/
structure RequestRow where
  request : Request
  pattern : Half
  mask : Half
deriving DecidableEq, Repr

/-- The dispatch table of R114, rows 1 to 7 in the row order given. -/
def dispatchTable : List RequestRow :=
  [{ request := .setAddress, pattern := 0x0500, mask := 0xFFE0 },
   { request := .setConfiguration, pattern := 0x0900, mask := 0xFFE0 },
   { request := .clearFeature, pattern := 0x0102, mask := 0xFF5F },
   { request := .setIdle, pattern := 0x0A20, mask := 0xFFE0 },
   { request := .getDescriptor, pattern := 0x0680, mask := 0xFFE0 },
   { request := .getReport, pattern := 0x01A0, mask := 0xFFE0 },
   { request := .fatal, pattern := 0x0000, mask := 0x0000 }]

/-- The first row of a table whose `(K and mask) = match` (R113). -/
def firstMatch (k : Half) : List RequestRow → Request
  | [] => .fatal
  | row :: rows => if k &&& row.mask = row.pattern then row.request else firstMatch k rows

/-- The request a key selects. -/
def dispatchRow (k : Half) : Request := firstMatch k dispatchTable

/-- bmRequestType[4:0] (R111). -/
def UsbRequest.recipient (r : UsbRequest) : BitVec 5 := r.bmRequestType.extractLsb' 0 5

/-- The request a packet spells: total, since row 7 takes every key (R113). -/
def decodeRequest (r : UsbRequest) : Instr :=
  match dispatchRow r.key with
  | .setAddress => .setAddress r.recipient r.args
  | .setConfiguration => .setConfiguration r.recipient r.args
  | .clearFeature => .clearFeature (r.bmRequestType.getLsbD 7) (r.bmRequestType.getLsbD 5) r.args
  | .setIdle => .setIdle r.recipient r.args
  | .getDescriptor => .getDescriptor r.recipient r.args
  | .getReport => .getReport r.recipient r.args
  | .fatal => .fatalUnhandled r

/-! ## Operation codes (R125) -/

/-- Why bytes spell no operation. -/
inductive DecodeError where
  /-- A code R125 does not list ("a decoder of this table refuses them"). -/
  | unusedCode (code : Byte)
  /-- Fewer bytes than the operation and its operands take. -/
  | truncated
  /-- An operand outside the values its rule admits. -/
  | badOperand
deriving DecidableEq, Repr

/-- What a parser of the front of a byte list answers. -/
abbrev Parsed (α : Type) := Except DecodeError (α × List Byte)

/-- Parse on with what the first parser answered and the bytes it left. -/
def andThen {α β : Type} (p : Parsed α) (f : α → List Byte → Parsed β) : Parsed β :=
  match p with
  | .ok (a, rest) => f a rest
  | .error e => .error e

/-- One operand byte. -/
def byteOperand : List Byte → Parsed Byte
  | b :: rest => .ok (b, rest)
  | [] => .error .truncated

/-- A two-byte operand, low byte first. -/
def halfOperand : List Byte → Parsed Half
  | lo :: hi :: rest => .ok (halfOfBytes lo hi, rest)
  | [_] => .error .truncated
  | [] => .error .truncated

/-- `n` operand bytes. -/
def bytesOperand (n : Nat) (bs : List Byte) : Parsed (List Byte) :=
  if n ≤ bs.length then .ok (bs.take n, bs.drop n) else .error .truncated

/-- An endpoint number 0..N_EP in one byte. -/
def epOperand : List Byte → Parsed EpNum
  | b :: rest => if h : b.toNat < 5 then .ok (⟨b.toNat, h⟩, rest) else .error .badOperand
  | [] => .error .truncated

/-- A u7 in one byte whose bit 7 is 0. -/
def addrOperand : List Byte → Parsed DevAddr
  | b :: rest => if b.getLsbD 7 then .error .badOperand else .ok (b.extractLsb' 0 7, rest)
  | [] => .error .truncated

/-- A u4 in one byte whose high nibble is 0. -/
def nibbleOperand : List Byte → Parsed (BitVec 4)
  | b :: rest => if b.extractLsb' 4 4 = 0 then .ok (b.extractLsb' 0 4, rest) else .error .badOperand
  | [] => .error .truncated

/-- A bit in one byte: 0 or 1. -/
def flagOperand : List Byte → Parsed Bool
  | b :: rest => if b = 0 then .ok (false, rest) else if b = 1 then .ok (true, rest) else .error .badOperand
  | [] => .error .truncated

/-- An endpoint type, numbered in the order 10_state.md R45 lists them. -/
def typeOperand : List Byte → Parsed EpType
  | b :: rest =>
    if b = 0 then .ok (.control, rest) else if b = 1 then .ok (.isochronous, rest)
    else if b = 2 then .ok (.bulk, rest) else if b = 3 then .ok (.interrupt, rest) else .error .badOperand
  | [] => .error .truncated

/-- An endpoint direction: IN 0, OUT 1. -/
def dirOperand : List Byte → Parsed EpDir
  | b :: rest => if b = 0 then .ok (.dirIn, rest) else if b = 1 then .ok (.dirOut, rest) else .error .badOperand
  | [] => .error .truncated

/-- A bank count, one less than itself. -/
def banksOperand : List Byte → Parsed Banks
  | b :: rest => if b = 0 then .ok (.one, rest) else if b = 1 then .ok (.two, rest) else .error .badOperand
  | [] => .error .truncated

/-- An EndpointConfig: enabled, type, direction, banks, size (two bytes), alloc. -/
def configOperand (bs : List Byte) : Parsed EndpointConfig :=
  andThen (flagOperand bs) fun enabled bs =>
  andThen (typeOperand bs) fun type bs =>
  andThen (dirOperand bs) fun direction bs =>
  andThen (banksOperand bs) fun banks bs =>
  andThen (halfOperand bs) fun size bs =>
  andThen (flagOperand bs) fun alloc bs =>
  .ok ({ enabled, type, direction, banks, size := size.toNat, alloc }, bs)

/-- CTRL_FIFO_WRITE's operands: the length of src, len, src; `len <= len(src)` (42_control.md R240). -/
def ctrlFifoWriteOperands (bs : List Byte) : Parsed Instr :=
  andThen (byteOperand bs) fun n bs =>
  andThen (byteOperand bs) fun len bs =>
  andThen (bytesOperand n.toNat bs) fun src bs =>
  if len.toNat ≤ n.toNat then .ok (.ctrlFifoWrite src len, bs) else .error .badOperand

/-- DECODE_GROUP's operands: i in 0..7, then the 32 raw bytes (44_decoder.md R332). -/
def decodeGroupOperands (bs : List Byte) : Parsed Instr :=
  andThen (byteOperand bs) fun i bs =>
  andThen (bytesOperand Config.rawSize bs) fun raw bs =>
  if i.toNat < 8 then .ok (.decodeGroup raw i.toNat, bs) else .error .badOperand

/-- The operation the front of a byte list spells in the code space, and the bytes after it. -/
def decodeCode : List Byte → Parsed Instr
  | [] => .error .truncated
  | code :: bs =>
    match code.toNat with
    | 0x01 => .ok (.devIsr, bs)
    | 0x02 => .ok (.epIsr, bs)
    | 0x03 => .ok (.eorstHandler, bs)
    | 0x04 => .ok (.autoTick, bs)
    | 0x05 => .ok (.autoWrite, bs)
    | 0x06 => .ok (.setupIntake, bs)
    | 0x07 =>
      andThen (halfOperand bs) fun v bs =>
      andThen (halfOperand bs) fun x bs =>
      .ok (.descSearch v x, bs)
    | 0x08 => ctrlFifoWriteOperands bs
    | 0x10 => .ok (.send, bs)
    | 0x11 =>
      andThen (bytesOperand Config.reportSize bs) fun r bs =>
      .ok (.reportUpdate r, bs)
    | 0x12 => .ok (.decode, bs)
    | 0x13 => .ok (.syncCheck, bs)
    | 0x14 =>
      andThen (bytesOperand Config.rawSize bs) fun raw bs =>
      .ok (.pollCycle raw, bs)
    | 0x15 =>
      andThen (bytesOperand Config.stateSize bs) fun c bs =>
      .ok (.remap c, bs)
    | 0x16 =>
      andThen (nibbleOperand bs) fun n bs =>
      .ok (.vote n, bs)
    | 0x17 =>
      andThen (byteOperand bs) fun b bs =>
      .ok (.decodeRawByte b, bs)
    | 0x18 => decodeGroupOperands bs
    | 0x20 =>
      andThen (epOperand bs) fun e bs =>
      .ok (.select e, bs)
    | 0x21 => .ok (.readStatus, bs)
    | 0x22 => .ok (.ackSetup, bs)
    | 0x23 => .ok (.commit, bs)
    | 0x24 => .ok (.commitClr, bs)
    | 0x25 => .ok (.fifoRead, bs)
    | 0x26 =>
      andThen (byteOperand bs) fun b bs =>
      .ok (.fifoWrite b, bs)
    | 0x27 => .ok (.stall, bs)
    | 0x28 => .ok (.epReset, bs)
    | 0x29 =>
      andThen (configOperand bs) fun c bs =>
      .ok (.epConfigure c, bs)
    | 0x2A => .ok (.ep0Init, bs)
    | 0x2B =>
      andThen (addrOperand bs) fun a bs =>
      .ok (.setDevaddr a, bs)
    | 0x2C => .ok (.readFrame, bs)
    | 0x2D => .ok (.readDevint, bs)
    | 0x2E => .ok (.clearDevint, bs)
    | 0x2F => .ok (.armSetupIrq, bs)
    | 0x40 => .ok (.hBusReset, bs)
    | 0x41 => .ok (.hSof, bs)
    | 0x42 =>
      andThen (addrOperand bs) fun a bs =>
      andThen (bytesOperand 8 bs) fun p bs =>
      .ok (.hSetup a p, bs)
    | 0x43 =>
      andThen (addrOperand bs) fun a bs =>
      andThen (epOperand bs) fun e bs =>
      .ok (.hIn a e, bs)
    | 0x44 =>
      andThen (addrOperand bs) fun a bs =>
      andThen (epOperand bs) fun e bs =>
      andThen (halfOperand bs) fun n bs =>
      andThen (bytesOperand n.toNat bs) fun d bs =>
      .ok (.hOut a e d, bs)
    | 0x45 => .ok (.hDeveventOther, bs)
    | _ => .error (.unusedCode code)

/-- The request the front of a byte list spells in the SETUP space: exactly 8 bytes (R110). -/
def decodeSetup : List Byte → Parsed Instr
  | b0 :: b1 :: b2 :: b3 :: b4 :: b5 :: b6 :: b7 :: rest =>
    .ok (decodeRequest { b0, b1, b2, b3, b4, b5, b6, b7 }, rest)
  | _ => .error .truncated

/-- The decoder: the operation at the front of a byte list of the given space. -/
def decodeBytes : OpFormat → List Byte → Parsed Instr
  | .setup, bs => decodeSetup bs
  | .code, bs => decodeCode bs

/-! ## The opcode table's numbering of bits -/

/-- The first `n` bytes of the number `w`, the least significant first. -/
def bytesOfNat : Nat → Nat → List Byte
  | 0, _ => []
  | n + 1, w => BitVec.ofNat 8 w :: bytesOfNat n (w / 256)

/-- The space of a table row with `nbits` bits: the 16-bit keys are SETUP packets, the 8-bit codes operations (R125). -/
def tableFormat (nbits : Nat) : OpFormat := if nbits ≤ 8 then .code else .setup

/-- The bytes of a table word: its `nbits` bits, then zeros past the longest operation with zero operands (34 bytes). -/
def tableBytes (nbits w : Nat) : List Byte := bytesOfNat 40 (w % 2 ^ nbits)

/-- The operation the decoder reads from a word of the opcode table. -/
def decodeTableWord (nbits w : Nat) : Option Instr :=
  match decodeBytes (tableFormat nbits) (tableBytes nbits w) with
  | .ok (i, _) => some i
  | .error _ => none

/-! ## The encoder -/

/-- bmRequestType from its fields (R111): direction, type and recipient. -/
def bmOfFields (dir : Bool) (type : BitVec 2) (recipient : BitVec 5) : Byte :=
  (BitVec.ofBool dir ++ type) ++ recipient

/-- The SETUP packet of a request, from the patterns of R114; none for an operation of the code space. -/
def Instr.packet : Instr → Option UsbRequest
  | .setAddress recipient a => some (.ofFields (bmOfFields false 0 recipient) 0x05 a)
  | .setConfiguration recipient a => some (.ofFields (bmOfFields false 0 recipient) 0x09 a)
  | .clearFeature dir cls a => some (.ofFields (bmOfFields dir (if cls then 1 else 0) 2) 0x01 a)
  | .setIdle recipient a => some (.ofFields (bmOfFields false 1 recipient) 0x0A a)
  | .getDescriptor recipient a => some (.ofFields (bmOfFields true 0 recipient) 0x06 a)
  | .getReport recipient a => some (.ofFields (bmOfFields true 1 recipient) 0x01 a)
  | .fatalUnhandled req => some req
  | _ => none

/-- A u16 operand's bytes, low byte first. -/
def encodeHalf (h : Half) : List Byte := [h.lo, h.hi]

/-- A bit operand's byte. -/
def encodeFlag (b : Bool) : Byte := if b then 1 else 0

/-- An endpoint number's byte. -/
def encodeEp (e : EpNum) : Byte := BitVec.ofNat 8 e.val

/-- A device address's byte. -/
def encodeAddr (a : DevAddr) : Byte := a.setWidth 8

/-- An endpoint type's byte. -/
def encodeType : EpType → Byte
  | .control => 0
  | .isochronous => 1
  | .bulk => 2
  | .interrupt => 3

/-- A direction's byte. -/
def encodeDir : EpDir → Byte
  | .dirIn => 0
  | .dirOut => 1

/-- A bank count's byte. -/
def encodeBanks : Banks → Byte
  | .one => 0
  | .two => 1

/-- An EndpointConfig's bytes. -/
def encodeConfig (c : EndpointConfig) : List Byte :=
  [encodeFlag c.enabled, encodeType c.type, encodeDir c.direction, encodeBanks c.banks] ++
    encodeHalf (BitVec.ofNat 16 c.size) ++ [encodeFlag c.alloc]

/-- The code-space bytes of an operation (R125's codes); none for a SETUP request. -/
def Instr.codeBytes : Instr → Option (List Byte)
  | .setAddress _ _ => none
  | .setConfiguration _ _ => none
  | .clearFeature _ _ _ => none
  | .setIdle _ _ => none
  | .getDescriptor _ _ => none
  | .getReport _ _ => none
  | .fatalUnhandled _ => none
  | .devIsr => some [0x01]
  | .epIsr => some [0x02]
  | .eorstHandler => some [0x03]
  | .autoTick => some [0x04]
  | .autoWrite => some [0x05]
  | .setupIntake => some [0x06]
  | .descSearch v x => some (0x07 :: (encodeHalf v ++ encodeHalf x))
  | .ctrlFifoWrite src len => some (0x08 :: BitVec.ofNat 8 src.length :: len :: src)
  | .send => some [0x10]
  | .reportUpdate r => some (0x11 :: r)
  | .decode => some [0x12]
  | .syncCheck => some [0x13]
  | .pollCycle raw => some (0x14 :: raw)
  | .remap c => some (0x15 :: c)
  | .vote n => some [0x16, n.setWidth 8]
  | .decodeRawByte b => some [0x17, b]
  | .decodeGroup raw i => some (0x18 :: BitVec.ofNat 8 i :: raw)
  | .select e => some [0x20, encodeEp e]
  | .readStatus => some [0x21]
  | .ackSetup => some [0x22]
  | .commit => some [0x23]
  | .commitClr => some [0x24]
  | .fifoRead => some [0x25]
  | .fifoWrite b => some [0x26, b]
  | .stall => some [0x27]
  | .epReset => some [0x28]
  | .epConfigure c => some (0x29 :: encodeConfig c)
  | .ep0Init => some [0x2A]
  | .setDevaddr a => some [0x2B, encodeAddr a]
  | .readFrame => some [0x2C]
  | .readDevint => some [0x2D]
  | .clearDevint => some [0x2E]
  | .armSetupIrq => some [0x2F]
  | .hBusReset => some [0x40]
  | .hSof => some [0x41]
  | .hSetup a p => some (0x42 :: encodeAddr a :: p)
  | .hIn a e => some [0x43, encodeAddr a, encodeEp e]
  | .hOut a e d => some ([0x44, encodeAddr a, encodeEp e] ++ encodeHalf (BitVec.ofNat 16 d.length) ++ d)
  | .hDeveventOther => some [0x45]

/-- The space an operation is encoded in. -/
def Instr.format (i : Instr) : OpFormat := if i.packet.isSome then .setup else .code

/-- The encoder: the bytes of a well-formed operation, in the space `i.format`. -/
def encode (i : Instr) : List Byte :=
  match i.packet with
  | some r => r.bytes
  | none => (i.codeBytes).getD []

end Sys2Proof
end

