-- ==== Sys2Proof/Machine/Position.lean ====
section
/-! DEFINITION. Where the CPU stands (10_state.md R31, R37): contexts, the control-engine phase, and a position as the
list of pseudocode lines still to run. A line is one atomic CPU step (00_scope.md R6): one port primitive, or one access
to a block variable, a port flag or a byte of memory, with the CPU-local computation on it. A line that reads puts the
lines that use the value in front of the rest, with the value in them. What each does is `lineStep` of
Machine/Sequencer.lean. -/

namespace Sys2Proof.Machine

/-- The CPU contexts of 00_scope.md R5. -/
inductive Ctx where
  | main | devIsr | epIsr
deriving DecidableEq, Repr

/-- `ce.phase` (10_state.md R37, 42_control.md R243). -/
inductive Phase where
  | idle | intake | dispatch | waitAddr | waitReport | cwWait | cwFill | halted
deriving DecidableEq, Repr

/-- Send result codes of 30_encoding.md R126: OK = 0, ERR_NOT_CONFIGURED = 1, ERR_TIMEOUT = 2. -/
inductive SendResult where
  | ok | notConfigured | timeout
deriving DecidableEq, Repr

/-- The value of a send result code (R126). -/
def SendResult.code : SendResult → Byte
  | .ok => 0
  | .notConfigured => 1
  | .timeout => 2

/-- The flags one READ_STATUS returns (30_encoding.md R124). -/
structure EpStatus where
  rxstp : Bool
  rxout : Bool
  txrdy : Bool
  wral : Bool
  nakin : Bool
  stalled : Bool
deriving DecidableEq, Repr

/-- The flags one READ_DEVINT returns (30_encoding.md R123). -/
structure DevEvents where
  eorst : Bool
  sof : Bool
  other : Bool
deriving DecidableEq, Repr

/-- The value the last `return v` gave (00_scope.md R10); the model's own record of it (log 16). -/
inductive Ret where
  | none
  /-- READ_STATUS. -/
  | status (st : EpStatus)
  /-- READ_DEVINT. -/
  | events (f : DevEvents)
  /-- READ_FRAME. -/
  | frame (f : Frame)
  /-- FIFO_READ, DECODE_GROUP. -/
  | byte (b : Byte)
  /-- DESC_SEARCH: the entry's index, or NONE. -/
  | entry (i : Option Nat)
  /-- CTRL_FIFO_WRITE returned DONE. -/
  | done
  /-- CTRL_FIFO_WRITE returned ABORTED. -/
  | aborted
  /-- SEND, and POLL_CYCLE's return of it: a code of R126. -/
  | sent (code : Byte)
  /-- POLL_CYCLE returned SKIPPED. -/
  | skipped
  /-- SYNC_CHECK, VOTE. -/
  | flag (b : Bool)
  /-- DECODE_RAW_BYTE: the earlier bit, the later bit. -/
  | bits (earlier later : Bool)
  /-- REMAP. -/
  | report (r : List Byte)
deriving DecidableEq, Repr

/-- The messages of the diagnostic trace (60_exceptions.md R376). -/
inductive Diag where
  | noDescriptor
  | unhandledRequest (req : UsbRequest)
deriving DecidableEq, Repr

/-- One line of the pseudocode of 41_enumeration.md to 44_decoder.md and 70_reset_and_hazards.md R412. -/
inductive Line where
  -- port primitives as lines (40_port.md)
  | select (e : EpNum)
  | selectReport
  | ackSetup
  | commit
  | commitClr
  | fifoWrite (b : Byte)
  | stall
  | epReset
  | epConfigure (c : EndpointConfig)
  | ep0Init
  | setDevaddr (a : DevAddr)
  | clearDevint
  | armSetupIrq
  -- block variables
  | setPhase (p : Phase)
  | setUsbConfiguration (v : Byte)
  | setIdleRate (v : Byte)
  | setIdleCounter (v : Byte)
  | setSofDiv (v : BitVec 2)
  | setI (v : Bool)
  /-- `send_l.s <- I`. -/
  | saveI
  /-- `I <- send_l.s`. -/
  | restoreI
  /-- The read of `JoypadReport[i]` in `FIFO_WRITE(JoypadReport[i])`. -/
  | readReport (i : Fin 8)
  /-- `JoypadReport[i] <- b`. -/
  | setReportByte (i : Fin 8) (b : Byte)
  | emitDiag (d : Diag)
  /-- `return v`. -/
  | ret (v : Ret)
  -- DEV_ISR (R201, R290, R292)
  /-- `f <- READ_DEVINT()` and the two tests of `f`. -/
  | readDevint
  | tickConfiguration
  | tickRate
  /-- The read of `sof_div` in `sof_div <- (sof_div + 1) mod SOF_DIV`. -/
  | tickDivide
  /-- `if sof_div != 0 then return`. -/
  | tickDivided
  /-- The read of `idle_counter` in `idle_counter <- (idle_counter + 1) mod 256`. -/
  | tickCount
  /-- The write of it. -/
  | setTickCount (v : Byte)
  /-- The read of `idle_counter` in `if idle_counter != idle_rate then return`. -/
  | tickCompare
  /-- The read of `idle_rate` there, and the test of `v` against it. -/
  | tickCompareRate (v : Byte)
  /-- `st <- READ_STATUS(); if st.WRAL = 0 then return` of AUTO_WRITE. -/
  | autoStatus
  -- EP_ISR (R230 to R241)
  /-- `st <- READ_STATUS(); if st.RXSTP = 0 then return`. -/
  | setupStatus
  /-- The FIFO_READ of `req.byte[i] <- FIFO_READ()`. -/
  | intakeByte (i : Fin 8)
  /-- The write of it. -/
  | setReqByte (i : Fin 8) (b : Byte)
  /-- DISPATCH: the read of `req.bmRequestType`. -/
  | dispatch
  /-- DISPATCH: the read of `req.bRequest`, and the row of the key. -/
  | dispatchOn (bm : Byte)
  /-- The handler of row `r` reading its next operand byte of `req`; `got` are the ones it has. -/
  | operand (r : Request) (got : List Byte)
  /-- The read of the next byte of `req.wLength` in `n <- min(req.wLength, 255, DESC_TABLE[i].len)`. -/
  | descLength (i : Nat) (got : List Byte)
  /-- `wait until TXRDY[0] = 1`. -/
  | waitTxrdy
  /-- `ce.src <- src`. -/
  | cwSetSrc (src : List Byte)
  /-- `ce.pos <- v`. -/
  | cwSetPos (v : Byte)
  /-- `ce.rem <- v`. -/
  | cwSetRem (v : Byte)
  /-- `ce.last_n <- v`. -/
  | cwSetLast (v : Byte)
  /-- `wait until TXRDY[0] = 1 or RXOUT[0] = 1` and the snapshot that ends it. -/
  | cwWait
  /-- The read of `ce.rem` in `n <- min(ce.rem, EP0_SIZE)`. -/
  | cwFill
  /-- The read of `ce.pos` in `FIFO_WRITE(ce.src[ce.pos + j])`. -/
  | cwByte (j : Nat)
  /-- The read of `ce.src[k]` there. -/
  | cwSource (k : Nat)
  /-- The read of `ce.pos` in `ce.pos <- ce.pos + n`. -/
  | cwAddPos (n : Byte)
  /-- The read of `ce.rem` in `ce.rem <- ce.rem - n`. -/
  | cwSubRem (n : Byte)
  /-- `if ce.rem = 0 and not (ZLP_AFTER_FULL and n = EP0_SIZE) then return DONE`. -/
  | cwLoop (n : Byte)
  /-- `halted <- 1; raise Fault(UNHANDLED_REQUEST, req)`. -/
  | fatalHalt (req : UsbRequest)
  -- MAIN (R293, R296, R333, R335, R412)
  /-- `EORSTE <- 1`: BOOT's first line. -/
  | boot
  /-- `SOFE <- 1`. -/
  | enableSof
  | attach
  | delay
  /-- `append POLL to ext`, and the sampler's bytes: the given ones, or free ones. -/
  | sample (raw : Option (List Byte))
  /-- `Raw[k] <- b`. -/
  | setRawByte (k : Fin 32) (b : Byte)
  | syncCheck
  | probe
  /-- DECODE of group `i`: the read of its next raw byte; `got` are the ones it has. -/
  | decodeByte (i : Fin 8) (got : List Byte)
  /-- `CState[i] <- b`. -/
  | setCStateByte (i : Fin 8) (b : Byte)
  /-- `r <- REMAP(CState)`: the read of the next byte of CState; then REPORT_UPDATE(r) and SEND. -/
  | remapReport (got : List Byte)
  /-- SEND's entry check of usb_configuration. -/
  | sendEntry
  | sendReadFrame
  /-- The loop's READ_STATUS: the first one, and every later one. -/
  | sendPoll
  | sendPollAgain
  | sendConfiguration
  | sendExpired
deriving DecidableEq, Repr

end Sys2Proof.Machine
end

