-- ==== Sys2Proof/Machine/State.lean ====
section
/-! DEFINITION. The whole state of the block as plain data (10_state.md R30 to R50), the reasons a step can stop, and
the state after power-on reset (R53, 70_reset_and_hazards.md R410). -/

namespace Sys2Proof.Machine

/-- One endpoint of the port (10_state.md R45, R46, R47). -/
structure Endpoint where
  en : Bool
  type : EpType
  dir : EpDir
  banks : Banks
  size : Nat
  alloc : Bool
  rxstpe : Bool
  rxstp : Bool
  rxout : Bool
  nakin : Bool
  stalled : Bool
  stallReq : Bool
  outbuf : List Byte
  cur : List Byte
  committed : List (List Byte)
deriving DecidableEq, Repr

/-- `ce`, the control-engine sequencing register (10_state.md R37). -/
structure ControlEngine where
  phase : Phase
  src : List Byte
  pos : Byte
  rem : Byte
  lastN : Byte
deriving DecidableEq, Repr

/-- `send_l`, the locals of an explicit send (10_state.md R38). -/
structure SendLocals where
  s : Bool
  t0 : Frame
deriving DecidableEq, Repr

/-- What the host sees of one transaction (10_state.md R50): the elements of `host_rx` beside the endpoint. `data []` is
a ZLP; `noAnswer` is the spec's NONE. -/
inductive HostOutcome where
  | data (pkt : List Byte)
  | nak
  | stall
  | ack
  | noAnswer
deriving DecidableEq, Repr

/-- The port primitives that can find no room (40_port.md R153, R154, R156). -/
inductive PortPrimitive where
  | commit | commitClr | fifoWrite
deriving DecidableEq, Repr

/-- The kinds of fault, the whole list (60_exceptions.md R370, R380). -/
inductive FaultKind where
  | unhandledRequest | portMisuse
deriving DecidableEq, Repr

/-- An element of the `fault` trace (60_exceptions.md R380): the kind with its info. The kind and its code are
`FaultRecord.kind` and `FaultKind.code` of Machine/Ops.lean. -/
inductive FaultRecord where
  /-- UNHANDLED_REQUEST (code 1) and the 8 request bytes. -/
  | unhandledRequest (req : UsbRequest)
  /-- PORT_MISUSE (code 2), the primitive and the endpoint. -/
  | portMisuse (prim : PortPrimitive) (ep : EpNum)
deriving DecidableEq, Repr

/-- A call of the out-of-scope bus sampler: the elements of `ext` (10_state.md R50). -/
inductive ExtCall where
  | poll | probe
deriving DecidableEq, Repr

/-- When an entry of the schedule is due: after a number of CPU steps, or at a quiescent point, which is the line
`cpu RUN` before it (70_reset_and_hazards.md R413, 30_encoding.md R127). -/
inductive Wait where
  | steps (n : Nat)
  | quiescent
deriving DecidableEq, Repr

/-- One entry of the schedule: when `wait` is over, the operation these bytes spell (log 3). -/
structure ScriptEntry where
  wait : Wait
  format : OpFormat
  bytes : List Byte
deriving DecidableEq, Repr

/-- The record S of 10_state.md R30, and the four fields of the model's own that INVENTORY.md names. -/
structure State where
  -- the read-only tables and parameters (R42, R43; log 1)
  params : Params
  -- CPU context (R31); `ie` is the global interrupt-enable I
  ctx : Ctx
  ie : Bool
  halted : Bool
  isrPc : List Line
  mainPc : List Line
  -- block variables (R32 to R38)
  usbConfiguration : Byte
  idleRate : Byte
  idleCounter : Byte
  sofDiv : BitVec 2
  req : UsbRequest
  ce : ControlEngine
  sendL : SendLocals
  -- memories (R39, R40, R41): JoypadReport, Raw, CState
  report : Memory
  raw : Memory
  cstate : Memory
  -- the port (R44 to R48)
  epSel : EpNum
  eps : Vector Endpoint 5
  devAddr : DevAddr
  adden : Bool
  frame : Frame
  eorst : Bool
  sof : Bool
  other : Bool
  eorste : Bool
  sofe : Bool
  othere : Bool
  attached : Bool
  -- output traces, oldest first (R50)
  hostRx : List (EpNum × HostOutcome)
  diag : List Diag
  fault : List FaultRecord
  ext : List ExtCall
  -- the model's own (log 3, log 9, log 16)
  script : List ScriptEntry
  draws : Nat
  ret : Ret
deriving DecidableEq, Repr

/-- The faults that end a run. UNHANDLED_REQUEST and PORT_MISUSE are none of them: the machine takes those and HOST goes
on (60_exceptions.md R375, R380), so they are next states. -/
inductive Fault where
  /-- An access to an address the space does not have (20_memory.md R80). Raised by DECODE_GROUP when its group of four
  bytes lies outside the 32 raw bytes (44_decoder.md R332), which no well-formed operation asks for. Safe: the machine
  stops where the spec gives no effect. -/
  | addressOutsideSpace (addr : Nat)
deriving DecidableEq, Repr

/-- Why a step has no meaning. -/
inductive Refusal where
  /-- An operation whose meaning is not written. Raised by no arm of exec. Safe. -/
  | notModelled (mnemonic : String)
  /-- The bytes of a script entry spell no operation of 30_encoding.md R125, or not all of one; "a decoder of this table
  refuses them" (93_implementation_defined.md U26). Raised by step. Safe. -/
  | undecodable (format : OpFormat) (bytes : List Byte)
  /-- A host action that 40_port.md R177 excludes: a SETUP during a transfer or over an unread one (HA1), a SETUP that
  is not 8 bytes or an OUT longer than the bank (HA2). The model does not offer it (93_implementation_defined.md U24).
  Raised by H_SETUP and H_OUT. Safe: nothing is claimed of such a run (log 12). -/
  | hostActionExcluded (mnemonic : String)
deriving DecidableEq, Repr

/-- The registers of a disabled endpoint that R53 leaves unspecified at power-on. -/
structure EpShape where
  type : EpType
  dir : EpDir
  banks : Banks
  size : Nat
  alloc : Bool
deriving DecidableEq, Repr

/-- Every value R53 marks unspecified at power-on (and the fields of `ce` it gives none for). -/
structure Unspecified where
  sofDiv : BitVec 2
  req : UsbRequest
  src : List Byte
  pos : Byte
  rem : Byte
  lastN : Byte
  sendL : SendLocals
  raw : List Byte
  cstate : List Byte
  shapes : Vector EpShape 5
  frame : Frame
deriving DecidableEq, Repr

/-- An endpoint at power-on (R53): disabled, every flag 0, every buffer empty. -/
def Endpoint.powerOn (h : EpShape) : Endpoint :=
  { en := false, type := h.type, dir := h.dir, banks := h.banks, size := h.size, alloc := h.alloc,
    rxstpe := false, rxstp := false, rxout := false, nakin := false, stalled := false, stallReq := false,
    outbuf := [], cur := [], committed := [] }

/-- The state after power-on reset, for given parameters and given unspecified values (R53, R410). -/
def State.powerOn (p : Params) (u : Unspecified) : State :=
  { params := p
    ctx := .main, ie := false, halted := false, isrPc := [], mainPc := [.boot]
    usbConfiguration := 0, idleRate := p.idleDefault, idleCounter := 0, sofDiv := u.sofDiv, req := u.req
    ce := { phase := .idle, src := u.src, pos := u.pos, rem := u.rem, lastN := u.lastN }
    sendL := u.sendL
    report := memOfBytes p.reportInit, raw := memOfBytes u.raw, cstate := memOfBytes u.cstate
    epSel := 0, eps := u.shapes.map Endpoint.powerOn
    devAddr := 0, adden := false, frame := u.frame
    eorst := false, sof := false, other := false, eorste := false, sofe := false, othere := false, attached := false
    hostRx := [], diag := [], fault := [], ext := []
    script := [], draws := 0, ret := .none }

/-- The value the model names for what R53 leaves unspecified: zero, and for a disabled endpoint Control, OUT, one bank,
size 0, not allocated. DESIGN CHOICE, unsafe (log 2). -/
def Unspecified.zero : Unspecified :=
  { sofDiv := 0, req := { b0 := 0, b1 := 0, b2 := 0, b3 := 0, b4 := 0, b5 := 0, b6 := 0, b7 := 0 }
    src := [], pos := 0, rem := 0, lastN := 0, sendL := { s := false, t0 := 0 }, raw := [], cstate := []
    shapes := Vector.replicate 5 { type := .control, dir := .dirOut, banks := .one, size := 0, alloc := false }
    frame := 0 }

/-- The state after power-on reset. -/
def State.reset : State := State.powerOn Config.exampleParams .zero

/-- Endpoint `e` of the port. -/
def State.ep (s : State) (e : EpNum) : Endpoint := s.eps[e]

/-- Write endpoint `e` of the port. -/
def State.setEp (s : State) (e : EpNum) (x : Endpoint) : State := { s with eps := s.eps.set e x }

end Sys2Proof.Machine
end

