-- ==== Sys2Proof/Machine/Flags.lean ====
section
/-! DEFINITION. Every derived flag and predicate of the state: the port flags (10_state.md R49, R51), the snapshots
(30_encoding.md R123, R124), the interrupt conditions (60_exceptions.md R371, R373) and the send timeout (43_report.md
R294). -/

namespace Sys2Proof.Machine

/-- The number of banks as a count. -/
def bankCount : Banks → Nat
  | .one => 1
  | .two => 2

/-- `TXRDY` of an endpoint (R49): enabled, and a bank is free. -/
def Endpoint.txrdy (x : Endpoint) : Bool := x.en && decide (x.committed.length < bankCount x.banks)

/-- `WRAL` of an endpoint (R49): enabled, a bank is free, and the bank being filled is not full. -/
def Endpoint.wral (x : Endpoint) : Bool :=
  x.en && decide (x.committed.length < bankCount x.banks) && decide (x.cur.length < x.size)

/-- The snapshot READ_STATUS takes of an endpoint (R124). -/
def Endpoint.status (x : Endpoint) : EpStatus :=
  { rxstp := x.rxstp, rxout := x.rxout, txrdy := x.txrdy, wral := x.wral, nakin := x.nakin, stalled := x.stalled }

/-- The snapshot READ_DEVINT takes (R123). -/
def State.events (s : State) : DevEvents := { eorst := s.eorst, sof := s.sof, other := s.other }

/-- `dev_pending` (41_enumeration.md R200). -/
def State.devPending (s : State) : Bool := (s.eorst && s.eorste) || (s.sof && s.sofe) || (s.other && s.othere)

/-- `ep_pending` (42_control.md R230). -/
def State.epPending (s : State) : Bool := (s.ep 0).rxstp && (s.ep 0).rxstpe

/-- Whether ISR_ORDER lets DEV_ISR be entered now (R373): alone pending, or first when both are; `dev` settles EITHER. -/
def State.devFirst (s : State) (dev : Bool) : Bool :=
  s.devPending && (!s.epPending ||
    match s.params.isrOrder with
    | .devFirst => true
    | .epFirst => false
    | .either => dev)

/-- The guard of interrupt entry for handler `h` (R371, R373): MAIN with I = 1, not halted, the source pending, and the
order not against it. -/
def State.canEnter (s : State) (h : Ctx) : Bool :=
  s.ctx == .main && s.ie && !s.halted &&
    match h with
    | .main => false
    | .devIsr => s.devFirst true
    | .epIsr => s.epPending && !s.devFirst false

/-- The states of the enumeration machine (R51). -/
inductive EnumState where
  | detached | resetPending | addressed | configured
deriving DecidableEq, Repr

/-- `enum_state(S)` (R51). -/
def State.enumState (s : State) : EnumState :=
  if !s.attached then .detached
  else if !(s.ep 0).en then .resetPending
  else if s.usbConfiguration = 0 then .addressed
  else .configured

/-- Whether a packet sent to address `a` reaches the device (40_port.md R170). -/
def State.answersTo (s : State) (a : DevAddr) : Bool := a == (if s.adden then s.devAddr else 0)

/-- `EXPIRED(t0, f)` (43_report.md R294): at least SEND_BUDGET frames have passed since `t0`, counted modulo 2^FRAME_W. -/
def expired (budget t0 f : Frame) : Bool := decide (budget.toNat ≤ (f - t0).toNat)

/-- The guard H_SETUP has beside attachment (40_port.md R173, R177 HA1): the control engine is IDLE or HALTED and no
SETUP is unread. -/
def State.setupAllowed (s : State) : Bool :=
  (s.ce.phase == .idle || s.ce.phase == .halted) && !(s.ep 0).rxstp

end Sys2Proof.Machine
end

