-- ==== Sys2Proof/Machine/Operands.lean ====
section
/-! DEFINITION. The operands each handler takes from `req` (30_encoding.md R116), and the reads of the memory spaces
(20_memory.md R80). No field is sign-extended. -/

namespace Sys2Proof.Machine

/-- SET_ADDRESS's `addr`: wValue[6:0], from the low byte of wValue. -/
def addrOf (lo : Byte) : DevAddr := lo.extractLsb' 0 7

/-- CLEAR_FEATURE's `ep`: wIndex[6:0], from the low byte of wIndex. -/
def featureEpOf (lo : Byte) : BitVec 7 := lo.extractLsb' 0 7

/-- The endpoint CLEAR_FEATURE acts on: feature ENDPOINT_HALT (0) and 1 <= ep <= N_EP; none otherwise (R235). -/
def haltTarget (feature : Half) (lo : Byte) : Option EpNum :=
  if h : feature = 0 ∧ 1 ≤ (featureEpOf lo).toNat ∧ (featureEpOf lo).toNat < 5 then
    some ⟨(featureEpOf lo).toNat, h.2.2⟩
  else none

/-- `DESC_SEARCH(v, x)` from index `i` on: the first entry, in table order, whose pair is (v, x) (42_control.md R238). -/
def descSearchFrom (v x : Half) : Nat → List DescriptorEntry → Option Nat
  | _, [] => none
  | i, d :: ds => if d.value = v ∧ d.index = x then some i else descSearchFrom v x (i + 1) ds

/-- `DESC_SEARCH(v, x)`. -/
def descSearch (p : Params) (v x : Half) : Option Nat := descSearchFrom v x 0 p.descTable

/-- The data of table entry `i` (space DESC). -/
def descData (p : Params) (i : Nat) : List Byte :=
  match p.descTable[i]? with
  | some d => d.data
  | none => []

/-- GET_DESCRIPTOR's `n`: min(wLength, 255, len) (R237). -/
def transferLength (wLength : Half) (data : List Byte) : Nat := min wLength.toNat (min Config.descMax data.length)

/-- The eight bytes of JoypadReport, `REPORT[0]` first. -/
def State.reportBytes (s : State) : List Byte := memBytes s.report Config.reportSize

/-- The eight bytes of CState. -/
def State.cstateBytes (s : State) : List Byte := memBytes s.cstate Config.stateSize

end Sys2Proof.Machine
end

