-- ==== Sys2Proof/Machine/Programs.lean ====
section
/-! DEFINITION. The pseudocode of every operation as a list of lines, in the spec's own order. A read or a test that
chooses how to go on is a line of its own, which `lineStep` expands. -/

namespace Sys2Proof.Machine

/-- `for i in 0..REPORT_SIZE-1: FIFO_WRITE(JoypadReport[i])`: each read puts its FIFO_WRITE in front. -/
def writeReportCode : List Line := (List.finRange 8).map .readReport

/-- DEV_ISR (41_enumeration.md R201): the snapshot, then what `readDevint` expands to. -/
def devIsrCode : List Line := [.readDevint]

/-- EORST_HANDLER (R202). -/
def eorstCode : List Line := [.select 0, .ep0Init, .armSetupIrq, .setUsbConfiguration 0]

/-- AUTO_TICK (43_report.md R290). -/
def autoTickCode : List Line := [.tickConfiguration]

/-- AUTO_WRITE (R292). -/
def autoWriteCode : List Line := [.selectReport, .autoStatus]

/-- EP_ISR (42_control.md R230). -/
def epIsrCode : List Line := [.select 0, .setupStatus]

/-- SETUP_INTAKE (R231). -/
def intakeCode : List Line :=
  .setPhase .intake :: (List.finRange 8).map .intakeByte ++ [.ackSetup, .setPhase .dispatch]

/-- The bytes of `req` the handler of a row reads, in the order its rule names them (30_encoding.md R116, 42_control.md
R233 to R241). -/
def operandBytes : Request → List Nat
  | .setAddress => [2]
  | .setConfiguration => [2]
  | .clearFeature => [2, 3, 4]
  | .setIdle => [3]
  | .getDescriptor => [2, 3, 4, 5]
  | .getReport => []
  | .fatal => [0, 1, 2, 3, 4, 5, 6, 7]

/-- SET_ADDRESS (R233), `lo` the low byte of wValue. -/
def setAddressCode (lo : Byte) : List Line :=
  [.commit, .setPhase .waitAddr, .waitTxrdy, .setDevaddr (addrOf lo)]

/-- The lines SET_CONFIGURATION runs for endpoint `e` (R234): none for a disabled entry. -/
def configureCode (p : Params) (e : EpNum) : List Line :=
  match p.epConfig e with
  | some c => if c.enabled then [.select e, .epConfigure c, .epReset] else []
  | none => []

/-- SET_CONFIGURATION (R234), `cfg` the low byte of wValue. -/
def setConfigurationCode (p : Params) (cfg : Byte) : List Line :=
  [.setUsbConfiguration cfg, .commit] ++
    configureCode p 1 ++ configureCode p 2 ++ configureCode p 3 ++ configureCode p 4

/-- CLEAR_FEATURE (R235), `ep` the low byte of wIndex. -/
def clearFeatureCode (feature : Half) (ep : Byte) : List Line :=
  match haltTarget feature ep with
  | some e => [.select e, .stall, .epReset, .select 0, .commit]
  | none => [.stall]

/-- SET_IDLE (R236), `rate` the high byte of wValue. Its two writes are two steps (00_scope.md R6), so the boundary between
them may have the count at or above the new rate, where 43_report.md R291 exempts AUTO_TICK only. The model follows R236
and R6. DESIGN CHOICE (log 32). -/
def setIdleCode (rate : Byte) : List Line := [.setIdleRate rate, .setIdleCounter 0, .commit]

/-- CTRL_FIFO_WRITE (R240). -/
def ctrlFifoWriteCode (src : List Byte) (len : Byte) : List Line :=
  [.cwSetSrc src, .cwSetPos 0, .cwSetRem len, .setPhase .cwWait, .cwWait]

/-- What CTRL_FIFO_WRITE does for a bank of `n` bytes (R240). -/
def fillBankCode (n : Nat) : List Line :=
  (List.range n).map .cwByte ++
    [.cwAddPos (BitVec.ofNat 8 n), .cwSubRem (BitVec.ofNat 8 n), .cwSetLast (BitVec.ofNat 8 n), .commit,
     .cwLoop (BitVec.ofNat 8 n)]

/-- GET_DESCRIPTOR (R237) up to the read of `req.wLength`. -/
def getDescriptorCode (p : Params) (v x : Half) : List Line :=
  match descSearch p v x with
  | none => [.stall, .emitDiag .noDescriptor]
  | some i => [.descLength i []]

/-- GET_DESCRIPTOR (R237) for entry `i` from the read of `req.wLength` on, with the bytes of it that it has. -/
def sendDescriptorCode (p : Params) (i : Nat) (got : List Byte) : List Line :=
  if got.length < 2 then [.descLength i got]
  else ctrlFifoWriteCode (descData p i)
    (BitVec.ofNat 8 (transferLength (halfOfBytes (got.getD 0 0) (got.getD 1 0)) (descData p i)))

/-- GET_REPORT (R239). -/
def getReportCode : List Line := [.setPhase .waitReport, .waitTxrdy] ++ writeReportCode ++ [.commit]

/-- FATAL (R241). -/
def fatalCode (req : UsbRequest) : List Line :=
  [.emitDiag (.unhandledRequest req), .setI false, .setPhase .halted, .fatalHalt req]

/-- The handler of a row once its operand bytes `got` are read (`operandBytes`, in that order). -/
def handlerBody (p : Params) (r : Request) (got : List Byte) : List Line :=
  match r with
  | .setAddress => setAddressCode (got.getD 0 0)
  | .setConfiguration => setConfigurationCode p (got.getD 0 0)
  | .clearFeature => clearFeatureCode (halfOfBytes (got.getD 0 0) (got.getD 1 0)) (got.getD 2 0)
  | .setIdle => setIdleCode (got.getD 0 0)
  | .getDescriptor =>
    getDescriptorCode p (halfOfBytes (got.getD 0 0) (got.getD 1 0)) (halfOfBytes (got.getD 2 0) (got.getD 3 0))
  | .getReport => getReportCode
  | .fatal =>
    fatalCode
      { b0 := got.getD 0 0, b1 := got.getD 1 0, b2 := got.getD 2 0, b3 := got.getD 3 0
        b4 := got.getD 4 0, b5 := got.getD 5 0, b6 := got.getD 6 0, b7 := got.getD 7 0 }

/-- How a handler goes on with the operand bytes it has: the read of the next one, or its body. -/
def handlerFrom (p : Params) (r : Request) (got : List Byte) : List Line :=
  if got.length < (operandBytes r).length then [.operand r got] else handlerBody p r got

/-- The handler of a row (R233 to R241) from its start. -/
def requestCode (p : Params) (r : Request) : List Line := handlerFrom p r []

/-- DISPATCH once the row is known (R232): the handler, then `ce.phase <- IDLE`; FATAL does not return. -/
def dispatchCode (p : Params) (r : Request) : List Line :=
  if r = .fatal then requestCode p r else requestCode p r ++ [.setPhase .idle]

/-- SEND (43_report.md R293). -/
def sendCode : List Line := [.sendEntry]

/-- REPORT_UPDATE(r) (R296). -/
def reportUpdateCode (r : List Byte) : List Line :=
  [.saveI, .setI false] ++ (List.finRange 8).map (fun i => .setReportByte i (r.getD i.val 0)) ++ [.restoreI]

/-- DECODE (44_decoder.md R333). -/
def decodeLines : List Line := (List.finRange 8).map fun i => .decodeByte i []

/-- The writes of the sampler's bytes to Raw (R335), at increasing addresses. -/
def fillRawCode (raw : List Byte) : List Line :=
  (List.finRange 32).map fun k => .setRawByte k (raw.getD k.val 0)

/-- POLL_CYCLE (R335); `raw` is what the sampler delivers, none for free bytes. -/
def pollCycleCode (raw : Option (List Byte)) : List Line := [.delay, .sample raw, .syncCheck]

/-- BOOT (70_reset_and_hazards.md R412) after its first line. -/
def bootRest : List Line := [.enableSof, .attach, .setI true]

/-- The body of a handler (60_exceptions.md R371: `isr_pc <- start of h's body`). -/
def handlerCode : Ctx → List Line
  | .main => []
  | .devIsr => devIsrCode
  | .epIsr => epIsrCode

end Sys2Proof.Machine
end

