-- ==== Sys2Proof/Machine/Signal.lean ====
section
/-! DEFINITION. The controller signal decoder as pure functions (44_decoder.md R330 to R336). -/

namespace Sys2Proof.Machine

/-- The number of 1 bits of a nibble. -/
def popcount (n : BitVec 4) : Nat :=
  (n.getLsbD 0).toNat + (n.getLsbD 1).toNat + (n.getLsbD 2).toNat + (n.getLsbD 3).toNat

/-- `VOTE(n)` (R330): 1 exactly when more than VOTE_T bits are set. -/
def voteNibble (n : BitVec 4) : Bool := decide (Config.voteT < popcount n)

/-- `b[7:4]`. -/
def highNibble (b : Byte) : BitVec 4 := b.extractLsb' 4 4

/-- `b[3:0]`. -/
def lowNibble (b : Byte) : BitVec 4 := b.extractLsb' 0 4

/-- `DECODE_RAW_BYTE(b)` (R331): the earlier bit, then the later. -/
def rawBits (b : Byte) : Bool × Bool := (voteNibble (highNibble b), voteNibble (lowNibble b))

/-- A bit shifted to position `k` of a byte. -/
def bitAt (b : Bool) (k : Nat) : Byte := (BitVec.ofBool b).setWidth 8 <<< k

/-- The two decoded bits of raw byte number `k` of a group, at positions 7 - 2k and 6 - 2k (R332). -/
def groupTerm (b : Byte) (k : Nat) : Byte := bitAt (rawBits b).1 (7 - 2 * k) ||| bitAt (rawBits b).2 (6 - 2 * k)

/-- `DECODE_GROUP` of four raw bytes (R332). -/
def groupByte (b0 b1 b2 b3 : Byte) : Byte := groupTerm b0 0 + groupTerm b1 1 + groupTerm b2 2 + groupTerm b3 3

/-- `DECODE_GROUP(raw, i)` (R332): the group of raw bytes 4i to 4i+3. -/
def groupOf (raw : List Byte) (i : Nat) : Byte :=
  groupByte (raw.getD (4 * i) 0) (raw.getD (4 * i + 1) 0) (raw.getD (4 * i + 2) 0) (raw.getD (4 * i + 3) 0)

/-- `SYNC_OK` (R334) of the first raw byte. -/
def syncOk (b : Byte) : Bool := b == Config.sync

/-- An axis transform (R336): affine in one decoded byte, modulo 256. -/
def AxisMap.apply (m : AxisMap) (c : List Byte) : Byte := m.scale * c.getD m.src.val 0 + m.offset

/-- The value of a decision tree on the decoded bytes. -/
def BitTree.eval : BitTree → List Byte → Bool
  | .leaf b, _ => b
  | .node byte bit ifClear ifSet, c => if (c.getD byte.val 0).getLsbD bit.val then BitTree.eval ifSet c else BitTree.eval ifClear c

/-- A button byte: bit k is the value of tree k. -/
def buttonByte (trees : Vector BitTree 8) (c : List Byte) : Byte :=
  bitAt (BitTree.eval trees[0] c) 0 ||| bitAt (BitTree.eval trees[1] c) 1 |||
    bitAt (BitTree.eval trees[2] c) 2 ||| bitAt (BitTree.eval trees[3] c) 3 |||
    bitAt (BitTree.eval trees[4] c) 4 ||| bitAt (BitTree.eval trees[5] c) 5 |||
    bitAt (BitTree.eval trees[6] c) 6 ||| bitAt (BitTree.eval trees[7] c) 7

/-- Report byte `k` of REMAP before the fixed joy_y case: the button bytes and the axis bytes by their maps (R120, R336). -/
def remapByte (p : Params) (c : List Byte) (k : Fin 8) : Byte :=
  match k with
  | 0 => buttonByte p.buttons.byte0 c
  | 1 => buttonByte p.buttons.byte1 c
  | 2 => AxisMap.apply p.axes.x c
  | 3 => AxisMap.apply p.axes.y c
  | 4 => AxisMap.apply p.axes.z c
  | 5 => AxisMap.apply p.axes.rx c
  | 6 => AxisMap.apply p.axes.ry c
  | 7 => AxisMap.apply p.axes.rz c

/-- One byte of REMAP(c): `(127 - c[JOY_Y_IN]) mod 256` at JOY_Y_OUT (R336). -/
def remapOut (p : Params) (c : List Byte) (k : Fin 8) : Byte :=
  if k = p.joyYOut then 127 - c.getD p.joyYIn.val 0 else remapByte p c k

/-- `REMAP(c)` (R336): eight report bytes. -/
def remapOf (p : Params) (c : List Byte) : List Byte :=
  [remapOut p c 0, remapOut p c 1, remapOut p c 2, remapOut p c 3,
   remapOut p c 4, remapOut p c 5, remapOut p c 6, remapOut p c 7]

end Sys2Proof.Machine
end

