-- ==== Sys2Proof/Machine/Ops.lean ====
section
/-! DEFINITION. The named operations over the state: the port primitives (40_port.md R150 to R165), raising a fault
(60_exceptions.md R380), interrupt entry and return (R371, R374). Endpoint-scoped primitives act on `EP_SEL`. -/

namespace Sys2Proof.Machine

/-- Change endpoint `e`. -/
def State.modEp (s : State) (e : EpNum) (f : Endpoint → Endpoint) : State := s.setEp e (f (s.ep e))

/-- The code of a fault kind (R370, R380): a number, to which the spec gives no width. -/
def FaultKind.code : FaultKind → Nat
  | .unhandledRequest => 1
  | .portMisuse => 2

/-- The kind of a fault record. -/
def FaultRecord.kind : FaultRecord → FaultKind
  | .unhandledRequest _ => .unhandledRequest
  | .portMisuse _ _ => .portMisuse

/-- The code of a fault record (R380). -/
def FaultRecord.code (r : FaultRecord) : Nat := r.kind.code

/-- `raise Fault(kind, info)` (R380): the record, `halted <- 1`, `I <- 0`. -/
def raiseFault (r : FaultRecord) (s : State) : State :=
  { s with fault := s.fault ++ [r], halted := true, ie := false }

/-- `emit DIAG(x)` (R376). -/
def emitDiag (d : Diag) (s : State) : State := { s with diag := s.diag ++ [d] }

/-- SELECT(e) (R150). -/
def portSelect (e : EpNum) (s : State) : State := { s with epSel := e }

/-- The endpoint after its bank being filled is handed to the host (R153). -/
def Endpoint.commitBank (x : Endpoint) : Endpoint := { x with committed := x.committed ++ [x.cur], cur := [] }

/-- The endpoint after the flags COMMIT_CLR clears are cleared (R154). -/
def Endpoint.clearDone (x : Endpoint) : Endpoint := { x with nakin := false, stalled := false, rxstp := false }

/-- ACK_SETUP() (R152): one atomic write of endpoint 0's RXSTP and RXOUT. -/
def portAckSetup (s : State) : State := s.modEp 0 fun x => { x with rxstp := false, rxout := false }

/-- COMMIT() (R153). -/
def portCommit (s : State) : State :=
  if !(s.ep s.epSel).en then s
  else if bankCount (s.ep s.epSel).banks ≤ (s.ep s.epSel).committed.length then
    raiseFault (.portMisuse .commit s.epSel) s
  else s.modEp s.epSel Endpoint.commitBank

/-- COMMIT_CLR() (R154): COMMIT and the clearing of NAKIN, STALLED, RXSTP as one atomic write. -/
def portCommitClr (s : State) : State :=
  if !(s.ep s.epSel).en then s
  else if bankCount (s.ep s.epSel).banks ≤ (s.ep s.epSel).committed.length then
    raiseFault (.portMisuse .commitClr s.epSel) s
  else s.modEp s.epSel fun x => x.commitBank.clearDone

/-- FIFO_READ() (R155): the byte and the state after; a free byte when the FIFO is empty. -/
def portFifoRead (s : State) : Byte × State :=
  match (s.ep s.epSel).outbuf with
  | [] => (Config.emptyFifoByte s.draws, { s with draws := s.draws + 1 })
  | b :: rest => (b, s.modEp s.epSel fun x => { x with outbuf := rest })

/-- FIFO_WRITE(b) (R156). -/
def portFifoWrite (b : Byte) (s : State) : State :=
  if !(s.ep s.epSel).en then s
  else if bankCount (s.ep s.epSel).banks ≤ (s.ep s.epSel).committed.length ∨
      (s.ep s.epSel).size ≤ (s.ep s.epSel).cur.length then
    raiseFault (.portMisuse .fifoWrite s.epSel) s
  else s.modEp s.epSel fun x => { x with cur := x.cur ++ [b] }

/-- STALL() (R157). -/
def portStall (s : State) : State := s.modEp s.epSel fun x => { x with stallReq := true }

/-- What EP_RESET, a bus reset and EP0_INIT do to an endpoint's buffers and status flags (R158, R171, R160). -/
def Endpoint.flush (x : Endpoint) : Endpoint :=
  { x with outbuf := [], cur := [], committed := [], rxstp := false, rxout := false, nakin := false,
           stalled := false, stallReq := false }

/-- EP_RESET() (R158). -/
def portEpReset (s : State) : State := s.modEp s.epSel Endpoint.flush

/-- The endpoint after EP_CONFIGURE(c) (R159). -/
def Endpoint.configure (c : EndpointConfig) (x : Endpoint) : Endpoint :=
  { x with en := true, type := c.type, dir := c.direction, banks := c.banks, size := c.size, alloc := c.alloc }

/-- EP_CONFIGURE(c) (R159). -/
def portEpConfigure (c : EndpointConfig) (s : State) : State := s.modEp s.epSel (Endpoint.configure c)

/-- Endpoint 0 after EP0_INIT (R160): a control endpoint of one bank of EP0_SIZE bytes, then reset. -/
def Endpoint.initControl (x : Endpoint) : Endpoint :=
  Endpoint.flush { x with en := true, type := .control, banks := .one, size := Config.ep0Size, alloc := true }

/-- EP0_INIT() (R160). -/
def portEp0Init (s : State) : State := s.modEp 0 Endpoint.initControl

/-- SET_DEVADDR(a) (R161). -/
def portSetDevaddr (a : DevAddr) (s : State) : State := { s with devAddr := a, adden := true }

/-- CLEAR_DEVINT() (R164): every device-event flag. -/
def portClearDevint (s : State) : State := { s with eorst := false, sof := false, other := false }

/-- ARM_SETUP_IRQ() (R165). -/
def portArmSetupIrq (s : State) : State := s.modEp 0 fun x => { x with rxstpe := true }

/-- `ce.phase <- p`. -/
def setPhase (p : Phase) (s : State) : State := { s with ce := { s.ce with phase := p } }

/-- INTERRUPT_ENTRY for handler `h` (R371): `I <- 0`, the context and its position; `main_pc` and every port register
stay as they stand. -/
def interruptEntry (h : Ctx) (s : State) : State := { s with ie := false, ctx := h, isrPc := handlerCode h }

/-- RETURN_FROM_INTERRUPT (R374): back to MAIN at `main_pc`, `I <- 1`. -/
def returnFromInterrupt (s : State) : State := { s with ctx := .main, ie := true, isrPc := [] }

end Sys2Proof.Machine
end

