-- ==== Sys2Proof/Machine/Sequencer.lean ====
section
/-! DEFINITION. How the CPU runs its lines: one line as one atomic step (00_scope.md R6), the holds, an operation run as
a whole with no other agent between its lines (log 6), the CPU's own next step with interrupt entry (R7, R371), and the
quiescent points at which a run is observed (70_reset_and_hazards.md R413). -/

namespace Sys2Proof.Machine

/-- The lines AUTO_WRITE runs once WRAL is 1 (43_report.md R292), and SEND before it resets the count (R293). -/
def commitReportCode : List Line := writeReportCode ++ [.commitClr]

/-- SEND after a successful poll (R293). -/
def sendSuccessCode : List Line := commitReportCode ++ [.setIdleCounter 0, .restoreI, .ret (.sent SendResult.ok.code)]

/-- What a poll of SEND's loop goes on with: the report, or the interrupt window (R293). -/
def sendPollNext (s : State) : List Line :=
  if (s.ep s.epSel).wral then sendSuccessCode else [.restoreI, .sendConfiguration]

/-- The lines DEV_ISR runs after its snapshot `f` (41_enumeration.md R201). -/
def devIsrNext (f : DevEvents) : List Line :=
  .clearDevint :: ((if f.eorst then eorstCode else []) ++ (if f.sof then autoTickCode else []))

/-- Whether CTRL_FIFO_WRITE is done after a bank of `n` bytes, with `rem` left (R240). -/
def cwDone (p : Params) (rem n : Byte) : Bool := rem == 0 && !(p.zlpAfterFull && n.toNat == Config.ep0Size)

/-- The write of one byte of the data, none where the data has no such byte. -/
def sourceCode (src : List Byte) (k : Nat) : List Line :=
  match src[k]? with
  | some b => [.fifoWrite b]
  | none => []

/-- DECODE of group `i` with the raw bytes it has (44_decoder.md R332, R333). -/
def decodeFrom (i : Fin 8) (got : List Byte) : List Line :=
  if got.length < 4 then [.decodeByte i got] else [.setCStateByte i (groupOf got 0)]

/-- POLL_CYCLE's REMAP with the bytes of CState it has, and then REPORT_UPDATE and SEND (R335, R336). -/
def remapFrom (p : Params) (got : List Byte) : List Line :=
  if got.length < Config.stateSize then [.remapReport got] else reportUpdateCode (remapOf p got) ++ sendCode

/-- One line: the state after it, and the lines it puts in front of the rest. -/
def lineStep (l : Line) (s : State) : State × List Line :=
  match l with
  | .select e => (portSelect e s, [])
  | .selectReport => (portSelect s.params.reportEp s, [])
  | .ackSetup => (portAckSetup s, [])
  | .commit => (portCommit s, [])
  | .commitClr => (portCommitClr s, [])
  | .fifoWrite b => (portFifoWrite b s, [])
  | .stall => (portStall s, [])
  | .epReset => (portEpReset s, [])
  | .epConfigure c => (portEpConfigure c s, [])
  | .ep0Init => (portEp0Init s, [])
  | .setDevaddr a => (portSetDevaddr a s, [])
  | .clearDevint => (portClearDevint s, [])
  | .armSetupIrq => (portArmSetupIrq s, [])
  | .setPhase p => (setPhase p s, [])
  | .setUsbConfiguration v => ({ s with usbConfiguration := v }, [])
  | .setIdleRate v => ({ s with idleRate := v }, [])
  | .setIdleCounter v => ({ s with idleCounter := v }, [])
  | .setSofDiv v => ({ s with sofDiv := v }, [])
  | .setI v => ({ s with ie := v }, [])
  | .saveI => ({ s with sendL := { s.sendL with s := s.ie } }, [])
  | .restoreI => ({ s with ie := s.sendL.s }, [])
  | .readReport i => (s, [.fifoWrite (memRead s.report i.val)])
  | .setReportByte i b => ({ s with report := memWrite s.report i.val b }, [])
  | .emitDiag d => (emitDiag d s, [])
  | .ret v => ({ s with ret := v }, [])
  | .readDevint => (s, devIsrNext s.events)
  | .tickConfiguration => (s, if s.usbConfiguration = 0 then [] else [.tickRate])
  | .tickRate => (s, if s.idleRate = 0 then [] else [.tickDivide])
  | .tickDivide => (s, [.setSofDiv (s.sofDiv + 1), .tickDivided])
  | .tickDivided => (s, if s.sofDiv = 0 then [.tickCount] else [])
  | .tickCount => (s, [.setTickCount (s.idleCounter + 1), .tickCompare])
  | .setTickCount v => ({ s with idleCounter := v }, [])
  | .tickCompare => (s, [.tickCompareRate s.idleCounter])
  | .tickCompareRate v => (s, if v = s.idleRate then .setIdleCounter 0 :: autoWriteCode else [])
  | .autoStatus => (s, if (s.ep s.epSel).wral then commitReportCode else [])
  | .setupStatus => (s, if (s.ep s.epSel).rxstp then intakeCode ++ [.dispatch] else [])
  | .intakeByte i => ((portFifoRead s).2, [.setReqByte i (portFifoRead s).1])
  | .setReqByte i b => ({ s with req := s.req.setByte i b }, [])
  | .dispatch => (s, [.dispatchOn s.req.bmRequestType])
  | .dispatchOn bm => (s, dispatchCode s.params (dispatchRow (halfOfBytes bm s.req.bRequest)))
  | .operand r got =>
    (s, handlerFrom s.params r (got ++ [s.req.bytes.getD ((operandBytes r).getD got.length 0) 0]))
  | .descLength i got => (s, sendDescriptorCode s.params i (got ++ [s.req.bytes.getD (6 + got.length) 0]))
  | .waitTxrdy => (s, [])
  | .cwSetSrc src => ({ s with ce := { s.ce with src := src } }, [])
  | .cwSetPos v => ({ s with ce := { s.ce with pos := v } }, [])
  | .cwSetRem v => ({ s with ce := { s.ce with rem := v } }, [])
  | .cwSetLast v => ({ s with ce := { s.ce with lastN := v } }, [])
  | .cwWait => (s, if (s.ep s.epSel).rxout then [.ret .aborted] else [.setPhase .cwFill, .cwFill])
  | .cwFill => (s, fillBankCode (min s.ce.rem.toNat Config.ep0Size))
  | .cwByte j => (s, [.cwSource (s.ce.pos.toNat + j)])
  | .cwSource k => (s, sourceCode s.ce.src k)
  | .cwAddPos n => (s, [.cwSetPos (s.ce.pos + n)])
  | .cwSubRem n => (s, [.cwSetRem (s.ce.rem - n)])
  | .cwLoop n => (s, if cwDone s.params s.ce.rem n then [.ret .done] else [.setPhase .cwWait, .cwWait])
  | .fatalHalt req => (raiseFault (.unhandledRequest req) s, [])
  | .boot => ({ s with eorste := true }, bootRest)
  | .enableSof => ({ s with sofe := true }, [])
  | .attach => ({ s with attached := true }, [])
  | .delay => ({ s with draws := s.draws + 1 }, if Config.delayMore s.draws then [.delay] else [])
  | .sample (some raw) => ({ s with ext := s.ext ++ [.poll] }, fillRawCode raw)
  | .sample none =>
    ({ s with ext := s.ext ++ [.poll], draws := s.draws + 1 },
      fillRawCode ((List.range Config.rawSize).map (Config.samplerByte s.draws)))
  | .setRawByte k b => ({ s with raw := memWrite s.raw k.val b }, [])
  | .syncCheck =>
    (s, if syncOk (memRead s.raw 0) then decodeLines ++ [.remapReport []] else [.delay, .probe, .ret .skipped])
  | .probe => ({ s with ext := s.ext ++ [.probe] }, [])
  | .decodeByte i got => (s, decodeFrom i (got ++ [memRead s.raw (4 * i.val + got.length)]))
  | .setCStateByte i b => ({ s with cstate := memWrite s.cstate i.val b }, [])
  | .remapReport got => (s, remapFrom s.params (got ++ [memRead s.cstate got.length]))
  | .sendEntry =>
    (s, if s.usbConfiguration = 0 then [.ret (.sent SendResult.notConfigured.code)]
        else [.saveI, .setI false, .selectReport, .sendReadFrame, .sendPoll])
  | .sendReadFrame => ({ s with sendL := { s.sendL with t0 := s.frame } }, [])
  | .sendPoll => (s, sendPollNext s)
  | .sendPollAgain => (s, sendPollNext s)
  | .sendConfiguration =>
    (s, if s.usbConfiguration = 0 then [.ret (.sent SendResult.notConfigured.code)] else [.sendExpired])
  | .sendExpired =>
    (s, if expired s.params.sendBudget s.sendL.t0 s.frame then [.ret (.sent SendResult.timeout.code)]
        else [.setI false, .selectReport, .sendPollAgain])

/-- The holds of 42_control.md R243: the CPU has no step in this line until its condition holds (R6). -/
def held (l : Line) (s : State) : Bool :=
  match l with
  | .waitTxrdy => !(s.ep 0).txrdy
  | .cwWait => !((s.ep 0).txrdy || (s.ep 0).rxout)
  | _ => false

/-- Where a whole operation pauses beside a hold: the second and later polls of SEND's loop, which without another
agent's step between would read what the last one read (log 7). -/
def pauses (l : Line) : Bool := l == .sendPollAgain

/-- Run lines one after the other with no other agent between: to their end, a hold, a pause or a halt. DELAY takes no
step here (44_decoder.md R335: zero or more). Answers the state and the lines left. -/
def runLines : Nat → List Line → State → State × List Line
  | 0, ls, s => (s, ls)
  | _ + 1, [], s => (s, [])
  | n + 1, l :: ls, s =>
    if s.halted || held l s || pauses l then (s, l :: ls)
    else if l == .delay then runLines n ls s
    else runLines n ((lineStep l s).2 ++ ls) (lineStep l s).1

/-- More lines than any operation of the block runs without a hold or a pause. -/
def lineBound : Nat := 1024

/-- Put lines in front of the running context's position. -/
def State.park (s : State) (ls : List Line) : State :=
  match s.ctx with
  | .main => { s with mainPc := ls ++ s.mainPc }
  | .devIsr => { s with isrPc := ls ++ s.isrPc }
  | .epIsr => { s with isrPc := ls ++ s.isrPc }

/-- An operation as a whole: its lines, and where it holds or pauses the lines left at the context's position, from
where the CPU goes on by itself. After the halt the CPU has no step (00_scope.md R7(d)). -/
def perform (ls : List Line) (s : State) : State :=
  if s.halted then s else (runLines lineBound ls s).1.park (runLines lineBound ls s).2

/-- An interrupt as a whole: entry, the handler's body, and return at the body's end; where the body holds, the
position inside the handler is kept; where it halts, there is no return (R371, R374, R375). Not enabled, it does not
happen. -/
def takeInterrupt (h : Ctx) (s : State) : State :=
  if s.canEnter h then
    if (runLines lineBound (handlerCode h) (interruptEntry h s)).2 = [] ∧
        !(runLines lineBound (handlerCode h) (interruptEntry h s)).1.halted then
      returnFromInterrupt (runLines lineBound (handlerCode h) (interruptEntry h s)).1
    else
      { (runLines lineBound (handlerCode h) (interruptEntry h s)).1 with
        isrPc := (runLines lineBound (handlerCode h) (interruptEntry h s)).2 }
  else s

/-- An operation whose meaning is a change of the state: none after the halt (00_scope.md R7(d)). -/
def cpuOp (f : State → State) (s : State) : State := if s.halted then s else f s

/-- The lines MAIN runs next: its position, or at its end the next POLL_CYCLE of BOOT's `loop forever` (R412). -/
def mainCode (s : State) : List Line :=
  match s.mainPc with
  | [] => pollCycleCode none
  | ls => ls

/-- One MAIN step. -/
def mainStep (s : State) : State :=
  match mainCode s with
  | [] => s
  | l :: ls => if held l s then s else { (lineStep l s).1 with mainPc := (lineStep l s).2 ++ ls }

/-- One step inside a handler: its next line, or at the body's end the return (R374). -/
def isrStep (s : State) : State :=
  match s.isrPc with
  | [] => returnFromInterrupt s
  | l :: ls => if held l s then s else { (lineStep l s).1 with isrPc := (lineStep l s).2 ++ ls }

/-- Whether an interrupt may be entered now (R371). -/
def State.mayEnter (s : State) : Bool := s.canEnter .devIsr || s.canEnter .epIsr

/-- The handler entered when one may be (R373); `dev` settles the order EITHER. -/
def State.enters (s : State) (dev : Bool) : Ctx := if s.devFirst dev then .devIsr else .epIsr

/-- The CPU's own next step: none after the halt; inside a handler its next line; in MAIN the entry of a pending
interrupt, or the next MAIN line. Whether a pending interrupt is entered at this boundary, and which of two, are free
choices (R371, R373; log 9). -/
def cpuStep (s : State) : State :=
  if s.halted then s
  else match s.ctx with
  | .main =>
    if s.mayEnter then
      if Config.enterNow s.draws then
        interruptEntry (s.enters (Config.devFirst s.draws)) { s with draws := s.draws + 1 }
      else mainStep { s with draws := s.draws + 1 }
    else mainStep s
  | .devIsr => isrStep s
  | .epIsr => isrStep s

/-- Quiescent point (a) of 70_reset_and_hazards.md R413: MAIN between two POLL_CYCLEs or inside DELAY, which is where
its next line is the DELAY, with no enabled interrupt pending (log 30). -/
def State.idleInMain (s : State) : Bool :=
  s.ctx == .main && (mainCode s).head? == some .delay && !s.devPending && !s.epPending

/-- Quiescent point (b) of R413: the CPU holds in WAIT_ADDR, WAIT_REPORT or CW_WAIT, which are EP_ISR's phases
(42_control.md R243), with its wait condition false. -/
def State.holds (s : State) : Bool :=
  s.ctx == .epIsr && (s.ce.phase == .waitAddr || s.ce.phase == .waitReport || s.ce.phase == .cwWait) &&
    s.isrPc.head?.any fun l => held l s

/-- A quiescent point (R413): (a), (b), or (c), the halt. -/
def State.quiescent (s : State) : Bool := s.idleInMain || s.holds || s.halted

/-- A script's line `cpu RUN` (R413, 30_encoding.md R127): CPU steps with no HOST action until a quiescent point. `none`
where `n` steps do not reach one: a run need not (SEND with a full endpoint, R417). -/
def cpuRun : Nat → State → Option State
  | 0, s => if s.quiescent then some s else none
  | n + 1, s => if s.quiescent then some s else cpuRun n (cpuStep s)

end Sys2Proof.Machine
end

