-- ==== Sys2Proof/Machine/Handlers.lean ====
section
/-! DEFINITION. The two interrupt handlers (EVENT) and the sub-procedures of handlers (SUB) of 41_enumeration.md,
42_control.md and 43_report.md. -/

namespace Sys2Proof.Machine

/-- DEV_ISR (R201): the interrupt taken, from entry to return. -/
def execDevIsr (s : State) : Host.Outcome State Fault Refusal := .next (takeInterrupt .devIsr s)

/-- EP_ISR (R230): the interrupt taken, from entry to return, a hold or the halt. -/
def execEpIsr (s : State) : Host.Outcome State Fault Refusal := .next (takeInterrupt .epIsr s)

/-- EORST_HANDLER (R202). -/
def execEorstHandler (s : State) : Host.Outcome State Fault Refusal := .next (perform eorstCode s)

/-- AUTO_TICK (R290). -/
def execAutoTick (s : State) : Host.Outcome State Fault Refusal := .next (perform autoTickCode s)

/-- AUTO_WRITE (R292). -/
def execAutoWrite (s : State) : Host.Outcome State Fault Refusal := .next (perform autoWriteCode s)

/-- SETUP_INTAKE (R231). -/
def execSetupIntake (s : State) : Host.Outcome State Fault Refusal := .next (perform intakeCode s)

/-- DESC_SEARCH(v, x) (R238): writes no state; its answer is the returned value. -/
def execDescSearch (v x : Half) (s : State) : Host.Outcome State Fault Refusal :=
  .next (cpuOp (fun s => { s with ret := .entry (descSearch s.params v x) }) s)

/-- CTRL_FIFO_WRITE(src, len) (R240). -/
def execCtrlFifoWrite (src : List Byte) (len : Byte) (s : State) : Host.Outcome State Fault Refusal :=
  .next (perform (ctrlFifoWriteCode src len) s)

end Sys2Proof.Machine
end

