-- ==== Sys2Proof/Machine/HostActions.lean ====
section
/-! DEFINITION. The host actions (40_port.md R170 to R176): each one atomic step of the HOST agent, also after the fatal
halt (60_exceptions.md R375). They change port state and the `host_rx` trace, never block state. While the device is not
attached an action reaches nothing (R170; log 11). -/

namespace Sys2Proof.Machine

/-- Append to `host_rx` (10_state.md R50). -/
def hostSees (e : EpNum) (o : HostOutcome) (s : State) : State := { s with hostRx := s.hostRx ++ [(e, o)] }

/-- What a bus reset does to one endpoint (R171). -/
def Endpoint.busReset (x : Endpoint) : Endpoint := Endpoint.flush { x with en := false, rxstpe := false }

/-- The effect of H_BUS_RESET (R171). -/
def hostBusReset (s : State) : State :=
  { s with devAddr := 0, adden := false, eps := s.eps.map Endpoint.busReset, eorst := true }

/-- The effect of H_SOF (R172). -/
def hostSof (s : State) : State := { s with frame := s.frame + 1, sof := true }

/-- Endpoint 0 after a SETUP with the packet `p` (R173). -/
def Endpoint.takeSetup (p : List Byte) (x : Endpoint) : Endpoint :=
  { x with outbuf := p, cur := [], committed := [], stallReq := false, stalled := false, rxstp := true }

/-- The effect of H_SETUP (R173), the guard met. -/
def hostSetup (a : DevAddr) (p : List Byte) (s : State) : State :=
  if !s.answersTo a then hostSees 0 .noAnswer s
  else if !(s.ep 0).en then hostSees 0 .noAnswer s
  else hostSees 0 .ack (s.modEp 0 (Endpoint.takeSetup p))

/-- The effect of H_IN (R174). -/
def hostIn (a : DevAddr) (e : EpNum) (s : State) : State :=
  if !s.answersTo a then hostSees e .noAnswer s
  else if !(s.ep e).en then hostSees e .noAnswer s
  else if (s.ep e).stallReq then hostSees e .stall (s.modEp e fun x => { x with stalled := true })
  else match (s.ep e).committed with
    | pkt :: rest => hostSees e (.data pkt) (s.modEp e fun x => { x with committed := rest })
    | [] => hostSees e .nak (s.modEp e fun x => { x with nakin := true })

/-- Whether H_OUT's packet is longer than the bank of the endpoint it reaches (R175, R177 HA2). -/
def outTooLong (a : DevAddr) (e : EpNum) (d : List Byte) (s : State) : Bool :=
  s.answersTo a && (s.ep e).en && decide ((s.ep e).size < d.length)

/-- The effect of H_OUT (R175), the guard met. After the fatal halt too: 60_exceptions.md R375 has the port answer "as its
rules say" and also endpoint 0 NAK every OUT, while by R175 the first OUT, with RXOUT[0] = 0, is ACKed. The model follows
R175. DESIGN CHOICE, unsafe (log 31). -/
def hostOut (a : DevAddr) (e : EpNum) (d : List Byte) (s : State) : State :=
  if !s.answersTo a then hostSees e .noAnswer s
  else if !(s.ep e).en then hostSees e .noAnswer s
  else if (s.ep e).stallReq then hostSees e .stall (s.modEp e fun x => { x with stalled := true })
  else if e = 0 ∧ (s.ep 0).rxout = false then
    hostSees 0 .ack (s.modEp 0 fun x => { x with outbuf := d, rxout := true })
  else hostSees e .nak s

/-- H_BUS_RESET (R171). -/
def execHBusReset (s : State) : Host.Outcome State Fault Refusal := .next (if s.attached then hostBusReset s else s)

/-- H_SOF (R172). -/
def execHSof (s : State) : Host.Outcome State Fault Refusal := .next (if s.attached then hostSof s else s)

/-- H_SETUP(a, p) (R173). A SETUP the host assumptions HA1, HA2 exclude is not offered (R177, log 12). -/
def execHSetup (a : DevAddr) (p : List Byte) (s : State) : Host.Outcome State Fault Refusal :=
  if !s.attached then .next s
  else if !s.setupAllowed || p.length != 8 then .refused (.hostActionExcluded "H_SETUP")
  else .next (hostSetup a p s)

/-- H_IN(a, e) (R174). -/
def execHIn (a : DevAddr) (e : EpNum) (s : State) : Host.Outcome State Fault Refusal :=
  .next (if s.attached then hostIn a e s else s)

/-- H_OUT(a, e, d) (R175). An OUT that HA2 excludes is not offered (R177, log 12). -/
def execHOut (a : DevAddr) (e : EpNum) (d : List Byte) (s : State) : Host.Outcome State Fault Refusal :=
  if !s.attached then .next s
  else if outTooLong a e d s then .refused (.hostActionExcluded "H_OUT")
  else .next (hostOut a e d s)

/-- H_DEVEVENT_OTHER (R176). -/
def execHDeveventOther (s : State) : Host.Outcome State Fault Refusal :=
  .next (if s.attached then { s with other := true } else s)

end Sys2Proof.Machine
end

