-- ==== Sys2Proof/Machine/MainOps.lean ====
section
/-! DEFINITION. The MAIN operations (OP) of 43_report.md and 44_decoder.md. -/

namespace Sys2Proof.Machine

/-- SEND (R293): to its return, or to its next poll when the report endpoint stays full (log 7). -/
def execSend (s : State) : Host.Outcome State Fault Refusal := .next (perform sendCode s)

/-- REPORT_UPDATE(r) (R296). -/
def execReportUpdate (r : List Byte) (s : State) : Host.Outcome State Fault Refusal :=
  .next (perform (reportUpdateCode r) s)

/-- DECODE (R333). -/
def execDecode (s : State) : Host.Outcome State Fault Refusal := .next (perform decodeLines s)

/-- SYNC_CHECK (R334). -/
def execSyncCheck (s : State) : Host.Outcome State Fault Refusal :=
  .next (cpuOp (fun s => { s with ret := .flag (syncOk (memRead s.raw 0)) }) s)

/-- POLL_CYCLE (R335) with the 32 bytes the sampler delivers. -/
def execPollCycle (raw : List Byte) (s : State) : Host.Outcome State Fault Refusal :=
  .next (perform (pollCycleCode (some raw)) s)

/-- REMAP(c) (R336). -/
def execRemap (c : List Byte) (s : State) : Host.Outcome State Fault Refusal :=
  .next (cpuOp (fun s => { s with ret := .report (remapOf s.params c) }) s)

/-- VOTE(n) (R330). -/
def execVote (n : BitVec 4) (s : State) : Host.Outcome State Fault Refusal :=
  .next (cpuOp (fun s => { s with ret := .flag (voteNibble n) }) s)

/-- DECODE_RAW_BYTE(b) (R331). -/
def execDecodeRawByte (b : Byte) (s : State) : Host.Outcome State Fault Refusal :=
  .next (cpuOp (fun s => { s with ret := .bits (rawBits b).1 (rawBits b).2 }) s)

/-- DECODE_GROUP(raw, i) (R332); a group outside the raw bytes is an access to an address the space does not have. -/
def execDecodeGroup (raw : List Byte) (i : Nat) (s : State) : Host.Outcome State Fault Refusal :=
  if 4 * i + 4 ≤ raw.length then .next (cpuOp (fun s => { s with ret := .byte (groupOf raw i) }) s)
  else .fault (.addressOutsideSpace (4 * i))

end Sys2Proof.Machine
end

