-- ==== Sys2Proof/Machine/Port.lean ====
section
/-! DEFINITION. The port primitives as operations of their own (40_port.md R150 to R165), each one atomic CPU step. -/

namespace Sys2Proof.Machine

/-- SELECT(e) (R150). -/
def execSelect (e : EpNum) (s : State) : Host.Outcome State Fault Refusal := .next (cpuOp (portSelect e) s)

/-- READ_STATUS() (R151): the snapshot of the selected endpoint, no side effect. -/
def execReadStatus (s : State) : Host.Outcome State Fault Refusal :=
  .next (cpuOp (fun s => { s with ret := .status (s.ep s.epSel).status }) s)

/-- ACK_SETUP() (R152). -/
def execAckSetup (s : State) : Host.Outcome State Fault Refusal := .next (cpuOp portAckSetup s)

/-- COMMIT() (R153). -/
def execCommit (s : State) : Host.Outcome State Fault Refusal := .next (cpuOp portCommit s)

/-- COMMIT_CLR() (R154). -/
def execCommitClr (s : State) : Host.Outcome State Fault Refusal := .next (cpuOp portCommitClr s)

/-- FIFO_READ() (R155). -/
def execFifoRead (s : State) : Host.Outcome State Fault Refusal :=
  .next (cpuOp (fun s => { (portFifoRead s).2 with ret := .byte (portFifoRead s).1 }) s)

/-- FIFO_WRITE(b) (R156). -/
def execFifoWrite (b : Byte) (s : State) : Host.Outcome State Fault Refusal := .next (cpuOp (portFifoWrite b) s)

/-- STALL() (R157). -/
def execStall (s : State) : Host.Outcome State Fault Refusal := .next (cpuOp portStall s)

/-- EP_RESET() (R158). -/
def execEpReset (s : State) : Host.Outcome State Fault Refusal := .next (cpuOp portEpReset s)

/-- EP_CONFIGURE(c) (R159). -/
def execEpConfigure (c : EndpointConfig) (s : State) : Host.Outcome State Fault Refusal :=
  .next (cpuOp (portEpConfigure c) s)

/-- EP0_INIT() (R160). -/
def execEp0Init (s : State) : Host.Outcome State Fault Refusal := .next (cpuOp portEp0Init s)

/-- SET_DEVADDR(a) (R161). -/
def execSetDevaddr (a : DevAddr) (s : State) : Host.Outcome State Fault Refusal := .next (cpuOp (portSetDevaddr a) s)

/-- READ_FRAME() (R162). -/
def execReadFrame (s : State) : Host.Outcome State Fault Refusal :=
  .next (cpuOp (fun s => { s with ret := .frame s.frame }) s)

/-- READ_DEVINT() (R163). -/
def execReadDevint (s : State) : Host.Outcome State Fault Refusal :=
  .next (cpuOp (fun s => { s with ret := .events s.events }) s)

/-- CLEAR_DEVINT() (R164). -/
def execClearDevint (s : State) : Host.Outcome State Fault Refusal := .next (cpuOp portClearDevint s)

/-- ARM_SETUP_IRQ() (R165). -/
def execArmSetupIrq (s : State) : Host.Outcome State Fault Refusal := .next (cpuOp portArmSetupIrq s)

end Sys2Proof.Machine
end

