-- ==== Sys2Proof/Machine/Requests.lean ====
section
/-! DEFINITION. The SETUP requests of 42_control.md: DISPATCH of a packet that selects the row, with `req` holding that
packet, and back to DISPATCH's `ce.phase <- IDLE` (R232, R242). -/

namespace Sys2Proof.Machine

/-- The state DISPATCH starts from: the packet of the request stands in `req` (R231). -/
def withRequest (i : Instr) (s : State) : State := { s with req := (i.packet).getD s.req }

/-- The handler of row `r` and DISPATCH's end (R232), from the packet of `i` in `req`. -/
def runRequest (i : Instr) (r : Request) (s : State) : State :=
  cpuOp (fun s => perform (dispatchCode s.params r) (withRequest i s)) s

/-- SET_ADDRESS (R233). -/
def execSetAddress (recipient : BitVec 5) (args : SetupArgs) (s : State) : Host.Outcome State Fault Refusal :=
  .next (runRequest (.setAddress recipient args) .setAddress s)

/-- SET_CONFIGURATION (R234). -/
def execSetConfiguration (recipient : BitVec 5) (args : SetupArgs) (s : State) : Host.Outcome State Fault Refusal :=
  .next (runRequest (.setConfiguration recipient args) .setConfiguration s)

/-- CLEAR_FEATURE (R235). -/
def execClearFeature (dir cls : Bool) (args : SetupArgs) (s : State) : Host.Outcome State Fault Refusal :=
  .next (runRequest (.clearFeature dir cls args) .clearFeature s)

/-- SET_IDLE (R236). -/
def execSetIdle (recipient : BitVec 5) (args : SetupArgs) (s : State) : Host.Outcome State Fault Refusal :=
  .next (runRequest (.setIdle recipient args) .setIdle s)

/-- GET_DESCRIPTOR (R237, R238, R240). -/
def execGetDescriptor (recipient : BitVec 5) (args : SetupArgs) (s : State) : Host.Outcome State Fault Refusal :=
  .next (runRequest (.getDescriptor recipient args) .getDescriptor s)

/-- GET_REPORT (R239). -/
def execGetReport (recipient : BitVec 5) (args : SetupArgs) (s : State) : Host.Outcome State Fault Refusal :=
  .next (runRequest (.getReport recipient args) .getReport s)

/-- FATAL (R241, R375): the machine takes the halt; a next state with `halted` set. -/
def execFatalUnhandled (req : UsbRequest) (s : State) : Host.Outcome State Fault Refusal :=
  .next (runRequest (.fatalUnhandled req) .fatal s)

end Sys2Proof.Machine
end

