-- ==== Sys2Proof/Machine/Dispatch.lean ====
section
/-! DEFINITION. One arm per operation of the opcode table, each a direct call of its meaning. -/

namespace Sys2Proof.Machine

def exec (i : Instr) (s : State) : Host.Outcome State Fault Refusal :=
  match i with
  | .setAddress recipient args => Sys2Proof.Machine.execSetAddress recipient args s
  | .setConfiguration recipient args => Sys2Proof.Machine.execSetConfiguration recipient args s
  | .clearFeature dir cls args => Sys2Proof.Machine.execClearFeature dir cls args s
  | .setIdle recipient args => Sys2Proof.Machine.execSetIdle recipient args s
  | .getDescriptor recipient args => Sys2Proof.Machine.execGetDescriptor recipient args s
  | .getReport recipient args => Sys2Proof.Machine.execGetReport recipient args s
  | .fatalUnhandled req => Sys2Proof.Machine.execFatalUnhandled req s
  | .devIsr => Sys2Proof.Machine.execDevIsr s
  | .epIsr => Sys2Proof.Machine.execEpIsr s
  | .eorstHandler => Sys2Proof.Machine.execEorstHandler s
  | .autoTick => Sys2Proof.Machine.execAutoTick s
  | .autoWrite => Sys2Proof.Machine.execAutoWrite s
  | .setupIntake => Sys2Proof.Machine.execSetupIntake s
  | .descSearch v x => Sys2Proof.Machine.execDescSearch v x s
  | .ctrlFifoWrite src len => Sys2Proof.Machine.execCtrlFifoWrite src len s
  | .send => Sys2Proof.Machine.execSend s
  | .reportUpdate r => Sys2Proof.Machine.execReportUpdate r s
  | .decode => Sys2Proof.Machine.execDecode s
  | .syncCheck => Sys2Proof.Machine.execSyncCheck s
  | .pollCycle raw => Sys2Proof.Machine.execPollCycle raw s
  | .remap c => Sys2Proof.Machine.execRemap c s
  | .vote n => Sys2Proof.Machine.execVote n s
  | .decodeRawByte b => Sys2Proof.Machine.execDecodeRawByte b s
  | .decodeGroup raw k => Sys2Proof.Machine.execDecodeGroup raw k s
  | .select e => Sys2Proof.Machine.execSelect e s
  | .readStatus => Sys2Proof.Machine.execReadStatus s
  | .ackSetup => Sys2Proof.Machine.execAckSetup s
  | .commit => Sys2Proof.Machine.execCommit s
  | .commitClr => Sys2Proof.Machine.execCommitClr s
  | .fifoRead => Sys2Proof.Machine.execFifoRead s
  | .fifoWrite b => Sys2Proof.Machine.execFifoWrite b s
  | .stall => Sys2Proof.Machine.execStall s
  | .epReset => Sys2Proof.Machine.execEpReset s
  | .epConfigure c => Sys2Proof.Machine.execEpConfigure c s
  | .ep0Init => Sys2Proof.Machine.execEp0Init s
  | .setDevaddr a => Sys2Proof.Machine.execSetDevaddr a s
  | .readFrame => Sys2Proof.Machine.execReadFrame s
  | .readDevint => Sys2Proof.Machine.execReadDevint s
  | .clearDevint => Sys2Proof.Machine.execClearDevint s
  | .armSetupIrq => Sys2Proof.Machine.execArmSetupIrq s
  | .hBusReset => Sys2Proof.Machine.execHBusReset s
  | .hSof => Sys2Proof.Machine.execHSof s
  | .hSetup a p => Sys2Proof.Machine.execHSetup a p s
  | .hIn a e => Sys2Proof.Machine.execHIn a e s
  | .hOut a e d => Sys2Proof.Machine.execHOut a e d s
  | .hDeveventOther => Sys2Proof.Machine.execHDeveventOther s

end Sys2Proof.Machine
end

