-- ==== Sys2Proof/Machine/Fetch.lean ====
section
/-! DEFINITION. How the machine reads its schedule (`script`; log 3): which entry is due, what its bytes spell, and in
which context an operation is run (00_scope.md R5, R7; 10_state.md R52). -/

namespace Sys2Proof.Machine

/-- The context an operation belongs to; none for one that every context, or the HOST, performs (R52, R125). -/
def homeCtx : Instr → Option Ctx
  | .setAddress _ _ => some .epIsr
  | .setConfiguration _ _ => some .epIsr
  | .clearFeature _ _ _ => some .epIsr
  | .setIdle _ _ => some .epIsr
  | .getDescriptor _ _ => some .epIsr
  | .getReport _ _ => some .epIsr
  | .fatalUnhandled _ => some .epIsr
  | .devIsr => some .main
  | .epIsr => some .main
  | .eorstHandler => some .devIsr
  | .autoTick => some .devIsr
  | .autoWrite => some .devIsr
  | .setupIntake => some .epIsr
  | .descSearch _ _ => some .epIsr
  | .ctrlFifoWrite _ _ => some .epIsr
  | .send => some .main
  | .reportUpdate _ => some .main
  | .decode => some .main
  | .syncCheck => some .main
  | .pollCycle _ => some .main
  | .remap _ => some .main
  | .vote _ => some .main
  | .decodeRawByte _ => some .main
  | .decodeGroup _ _ => some .main
  | .select _ => none
  | .readStatus => none
  | .ackSetup => none
  | .commit => none
  | .commitClr => none
  | .fifoRead => none
  | .fifoWrite _ => none
  | .stall => none
  | .epReset => none
  | .epConfigure _ => none
  | .ep0Init => none
  | .setDevaddr _ => none
  | .readFrame => none
  | .readDevint => none
  | .clearDevint => none
  | .armSetupIrq => none
  | .hBusReset => none
  | .hSof => none
  | .hSetup _ _ => none
  | .hIn _ _ => none
  | .hOut _ _ _ => none
  | .hDeveventOther => none

/-- Whether an operation may run where the CPU stands: an operation of another context waits until the CPU is there
(R7: "MAIN and the other handler do not run meanwhile"). After the halt no CPU operation has an effect, so none waits. -/
def runsNow (i : Instr) (s : State) : Bool :=
  s.halted ||
    match homeCtx i with
    | none => true
    | some c => c == s.ctx

/-- What the next step does. -/
inductive Fetched where
  /-- A CPU step from this state. -/
  | cpu (s : State)
  /-- The operation `i` from this state. -/
  | operation (i : Instr) (s : State)
  /-- Bytes that spell no operation. -/
  | bad (format : OpFormat) (bytes : List Byte)
deriving DecidableEq, Repr

/-- What a step does with an entry that is due: its operation with the entry taken off, or a CPU step where the
operation belongs to another context. -/
def fetchDue (entry : ScriptEntry) (rest : List ScriptEntry) (s : State) : Fetched :=
  match decodeBytes entry.format entry.bytes with
  | .error _ => .bad entry.format entry.bytes
  | .ok (i, _) => if runsNow i s then .operation i { s with script := rest } else .cpu s

/-- Read the schedule: no entry, or one still waiting, is a CPU step. An entry is due when its CPU steps are counted
down, or at a quiescent point (70_reset_and_hazards.md R413). -/
def fetch (s : State) : Fetched :=
  match s.script with
  | [] => .cpu s
  | entry :: rest =>
    match entry.wait with
    | .steps (n + 1) => .cpu { s with script := { entry with wait := .steps n } :: rest }
    | .steps 0 => fetchDue entry rest s
    | .quiescent => if s.quiescent then fetchDue entry rest s else .cpu s

/-- `s` with the operation a table word spells due at the next step, and the CPU in the context that operation belongs
to, so that it is the very next one to run. -/
def placeWord (s : State) (nbits w : Nat) : State :=
  { s with
    script := { wait := .steps 0, format := tableFormat nbits, bytes := tableBytes nbits w } :: s.script
    ctx := match decodeTableWord nbits w with
      | some i => (homeCtx i).getD s.ctx
      | none => s.ctx }

end Sys2Proof.Machine
end

