-- ==== Sys2Proof/Machine/Step.lean ====
section
/-! DEFINITION. One step of the machine: the operation the schedule has due, or else the CPU's own next step. -/

namespace Sys2Proof.Machine

/-- One step. -/
def step (s : State) : Host.Outcome State Fault Refusal :=
  match fetch s with
  | .cpu t => .next (cpuStep t)
  | .operation i t => exec i t
  | .bad format bytes => .refused (.undecodable format bytes)

/-- `s` with an operation stored where step reads its next one. -/
def State.withFetchWord (s : State) (nbits w : Nat) : State := placeWord s nbits w

end Sys2Proof.Machine
end

