-- ==== Sys2Proof/Safety.lean ====
section
/-! DEFINITION. What a safe run of the block means, in the terms the statements use: which lines belong to which
context, schedules that hold HOST actions only (the runs of the real block, log 3), and the invariants. -/

namespace Sys2Proof.Machine

/-- `n` steps of the machine, stopping at the first fault or refusal. -/
def runSteps (n : Nat) (s : State) : Host.Outcome State Fault Refusal := Sys2Proof.core.run n s

/-- Operations one after the other, stopping at the first fault or refusal. -/
def runOps : List Instr → State → Host.Outcome State Fault Refusal
  | [], s => .next s
  | i :: is, s =>
    match exec i s with
    | .next t => runOps is t
    | .fault r => .fault r
    | .refused r => .refused r

/-- The operations of format HOST (30_encoding.md R125). -/
def isHostAction : Instr → Bool
  | .hBusReset => true
  | .hSof => true
  | .hSetup _ _ => true
  | .hIn _ _ => true
  | .hOut _ _ _ => true
  | .hDeveventOther => true
  | _ => false

/-- The primitives of format PORT (R125). -/
def isPortPrimitive : Instr → Bool
  | .select _ => true
  | .readStatus => true
  | .ackSetup => true
  | .commit => true
  | .commitClr => true
  | .fifoRead => true
  | .fifoWrite _ => true
  | .stall => true
  | .epReset => true
  | .epConfigure _ => true
  | .ep0Init => true
  | .setDevaddr _ => true
  | .readFrame => true
  | .readDevint => true
  | .clearDevint => true
  | .armSetupIrq => true
  | _ => false

/-- Whether an entry of the schedule spells a HOST action. -/
def hostEntry (e : ScriptEntry) : Bool :=
  match decodeBytes e.format e.bytes with
  | .ok (i, _) => isHostAction i
  | .error _ => false

/-- A schedule of HOST actions only: the CPU then runs its own program and nothing else. -/
def State.hostScript (s : State) : Bool := s.script.all hostEntry

/-- The lines of DEV_ISR's program. -/
def devLine : Line → Bool
  | .readDevint => true
  | .clearDevint => true
  | .select _ => true
  | .selectReport => true
  | .ep0Init => true
  | .armSetupIrq => true
  | .setUsbConfiguration _ => true
  | .setIdleCounter _ => true
  | .setSofDiv _ => true
  | .tickConfiguration => true
  | .tickRate => true
  | .tickDivide => true
  | .tickDivided => true
  | .tickCount => true
  | .setTickCount _ => true
  | .tickCompare => true
  | .tickCompareRate _ => true
  | .autoStatus => true
  | .readReport _ => true
  | .fifoWrite _ => true
  | .commitClr => true
  | _ => false

/-- The lines of EP_ISR's program. -/
def epLine : Line → Bool
  | .select _ => true
  | .setupStatus => true
  | .intakeByte _ => true
  | .setReqByte _ _ => true
  | .ackSetup => true
  | .dispatch => true
  | .dispatchOn _ => true
  | .operand _ _ => true
  | .descLength _ _ => true
  | .setPhase _ => true
  | .commit => true
  | .waitTxrdy => true
  | .setDevaddr _ => true
  | .setUsbConfiguration _ => true
  | .epConfigure _ => true
  | .epReset => true
  | .stall => true
  | .setIdleRate _ => true
  | .setIdleCounter _ => true
  | .emitDiag _ => true
  | .cwSetSrc _ => true
  | .cwSetPos _ => true
  | .cwSetRem _ => true
  | .cwSetLast _ => true
  | .cwWait => true
  | .cwFill => true
  | .cwByte _ => true
  | .cwSource _ => true
  | .fifoWrite _ => true
  | .readReport _ => true
  | .cwAddPos _ => true
  | .cwSubRem _ => true
  | .cwLoop _ => true
  | .ret _ => true
  | .setI v => !v
  | .fatalHalt _ => true
  | _ => false

/-- The lines of MAIN's program. -/
def mainLine : Line → Bool
  | .boot => true
  | .enableSof => true
  | .attach => true
  | .setI _ => true
  | .saveI => true
  | .restoreI => true
  | .delay => true
  | .sample _ => true
  | .setRawByte _ _ => true
  | .syncCheck => true
  | .probe => true
  | .ret _ => true
  | .decodeByte _ _ => true
  | .setCStateByte _ _ => true
  | .remapReport _ => true
  | .setReportByte _ _ => true
  | .sendEntry => true
  | .selectReport => true
  | .sendReadFrame => true
  | .sendPoll => true
  | .sendPollAgain => true
  | .sendConfiguration => true
  | .sendExpired => true
  | .readReport _ => true
  | .fifoWrite _ => true
  | .commitClr => true
  | .setIdleCounter _ => true
  | _ => false

/-- No nesting (60_exceptions.md R372): outside MAIN, I = 0, and the handler's remaining lines are lines of handlers. -/
def State.noNesting (s : State) : Prop :=
  s.ctx ≠ .main → s.ie = false ∧ ∀ l ∈ s.isrPc, devLine l = true ∨ epLine l = true

/-- The fault trace and the halt go together (R380): one record when halted and none before, and I = 0 when halted. -/
def State.haltRecorded (s : State) : Prop :=
  s.fault.length = (if s.halted then 1 else 0) ∧ (s.halted = true → s.ie = false)

/-- The three memories are in canonical form and inside their spaces (20_memory.md R80). -/
def State.memoryWf (s : State) : Prop :=
  (s.report.wf = true ∧ ∀ c ∈ s.report, c.1 < 8) ∧
  (s.raw.wf = true ∧ ∀ c ∈ s.raw, c.1 < 32) ∧
  (s.cstate.wf = true ∧ ∀ c ∈ s.cstate, c.1 < 8)

/-- Where EP_ISR stands while `ce.phase` may be other than IDLE: before a line that ends its program, or that the lines
ending it come from. -/
def endsDispatch (l : Line) : Bool :=
  match l with
  | .dispatch => true
  | .dispatchOn _ => true
  | .operand r _ => r == .fatal
  | .setPhase p => p == .idle
  | .fatalHalt _ => true
  | _ => false

/-- The contexts' programs and the phase (10_state.md R37): MAIN's and DEV_ISR's positions hold their own lines; the
phase is IDLE outside EP_ISR; inside it, the phase is IDLE at the start and at the end of the body, and between them
the position ends with the line that sets it back (or halts). -/
def State.phaseInv (s : State) : Prop :=
  (∀ l ∈ s.mainPc, mainLine l = true) ∧
  match s.ctx with
  | .main => s.ce.phase = .idle
  | .devIsr => s.ce.phase = .idle ∧ ∀ l ∈ s.isrPc, devLine l = true
  | .epIsr =>
    s.halted = true ∨
    ((s.isrPc = [] ∨ s.isrPc = [.setupStatus] ∨ s.isrPc = epIsrCode) ∧ s.ce.phase = .idle) ∨
    (∃ ls l, s.isrPc = ls ++ [l] ∧ endsDispatch l = true)

/-- SET_IDLE's two writes stand next to each other in a position (42_control.md R236), every other write of the count
is of 0, and AUTO_TICK's lines that carry a value of the count stand nowhere. -/
def idleWritesPaired : List Line → Bool
  | [] => true
  | .setIdleRate _ :: ls =>
    match ls with
    | .setIdleCounter v :: ls => v == 0 && idleWritesPaired ls
    | _ => false
  | .setIdleCounter v :: ls => v == 0 && idleWritesPaired ls
  | .setTickCount _ :: _ => false
  | .tickCompareRate _ :: _ => false
  | _ :: ls => idleWritesPaired ls

/-- The idle count at a handler's position (43_report.md R290, R291): below the rate while the rate is not 0, but for
AUTO_TICK between its increment and its reset, which R291 names, and for SET_IDLE between its two writes, which it does
not: DESIGN CHOICE (log 32). -/
def State.idleAt (s : State) : List Line → Prop
  | .setTickCount v :: ls =>
    (∃ rest, ls = .tickCompare :: rest ∧ idleWritesPaired rest = true) ∧
      (s.idleRate = 0 ∨ (v = s.idleCounter + 1 ∧ s.idleCounter.toNat < s.idleRate.toNat))
  | .tickCompare :: ls =>
    idleWritesPaired ls = true ∧ (s.idleRate = 0 ∨ s.idleCounter.toNat ≤ s.idleRate.toNat)
  | .tickCompareRate v :: ls =>
    idleWritesPaired ls = true ∧
      (s.idleRate = 0 ∨ (v = s.idleCounter ∧ s.idleCounter.toNat ≤ s.idleRate.toNat))
  | .setIdleCounter v :: ls => v = 0 ∧ idleWritesPaired ls = true
  | ls => idleWritesPaired ls = true ∧ (s.idleRate = 0 ∨ s.idleCounter.toNat < s.idleRate.toNat)

/-- The idle count invariant (43_report.md R291): `idleAt` in a handler, and in MAIN the count below the rate; MAIN and
DEV_ISR stand in their own programs, and MAIN writes the count with 0 only. -/
def State.idleInv (s : State) : Prop :=
  (∀ l ∈ s.mainPc, mainLine l = true) ∧
  (∀ v, .setIdleCounter v ∈ s.mainPc → v = 0) ∧
  (s.ctx = .devIsr → ∀ l ∈ s.isrPc, devLine l = true) ∧
  s.idleAt (if s.ctx = .main then [] else s.isrPc)

/-- The accesses of MAIN that a critical section brackets (20_memory.md R88): the report bytes, the report endpoint's
FIFO and the idle count. -/
def needsSection (l : Line) : Bool :=
  match l with
  | .setReportByte _ _ => true
  | .readReport _ => true
  | .fifoWrite _ => true
  | .commitClr => true
  | .setIdleCounter _ => true
  | .sendPoll => true
  | .sendPollAgain => true
  | _ => false

/-- The value `I` may have after a line that had it as `ie` before; 1 where the line leaves either. -/
def ieAfter (ie : Bool) (l : Line) : Bool :=
  match l with
  | .setI v => v
  | .boot => true
  | .restoreI => true
  | .remapReport _ => true
  | .syncCheck => true
  | .sendEntry => true
  | .sendPoll => true
  | .sendPollAgain => true
  | .sendConfiguration => true
  | .sendExpired => true
  | _ => ie

/-- Every access of a position that a critical section brackets stands where `I` is 0, from `ie` at the front on. -/
def bracketed : Bool → List Line → Bool
  | _, [] => true
  | ie, l :: ls => (!needsSection l || !ie) && bracketed (ieAfter ie l) ls

/-- Critical sections (R88, R90): what MAIN still has to run is bracketed, from the present `I` in MAIN, and from
`I` = 1 while a handler runs, since that is what the return restores. -/
def State.sectionInv (s : State) : Prop :=
  (∀ l ∈ s.mainPc, mainLine l = true) ∧
  bracketed (if s.ctx = .main then s.ie else true) s.mainPc = true

/-- The stuck holds of 70_reset_and_hazards.md R417: with endpoint 0 disabled EP_ISR waits for TXRDY[0] (WAIT_ADDR,
WAIT_REPORT), or for TXRDY[0] or RXOUT[0] (CW_WAIT) with RXOUT[0] = 0. -/
def State.stuckInWait (s : State) : Prop :=
  s.ctx = .epIsr ∧ (s.ep 0).en = false ∧ s.hostScript = true ∧
  ∃ l ls, s.isrPc = l :: ls ∧ (l = .waitTxrdy ∨ (l = .cwWait ∧ (s.ep 0).rxout = false))

/-! ## Room in the banks (43_report.md R292, R297(b)) -/

/-- What a place in a position may rely on about the port: whether `I` may be 1, EP_SEL where it is known, whether
`ce.phase` is one of a transfer (`busy`) and RXSTP[0] is 0 besides (`acked`), whether endpoint 0 and the report endpoint
are disabled or have a free bank, and how many bytes CUR of the selected endpoint holds at most. -/
structure Room where
  ie : Bool
  sel : Option EpNum
  busy : Bool
  acked : Bool
  free0 : Bool
  freeReport : Bool
  cur : Nat
deriving DecidableEq, Repr

/-- Nothing known but that every CUR is empty. -/
def Room.start (ie : Bool) : Room :=
  { ie := ie, sel := none, busy := false, acked := false, free0 := false, freeReport := false, cur := 0 }

/-- What is known of the port holds in a state. -/
structure RoomHolds (k : Room) (s : State) : Prop where
  ie : s.ie = true → k.ie = true
  settled : k.ie = true → k = .start true
  sel : ∀ e, k.sel = some e → s.epSel = e
  cur : ∀ e, (s.ep e).cur.length ≤ if k.sel = some e then k.cur else 0
  busy : k.busy = true ∨ k.acked = true → s.ce.phase ≠ .idle ∧ s.ce.phase ≠ .halted
  acked : k.acked = true → (s.ep 0).rxstp = false
  free0 : k.free0 = true → (s.ep 0).en = true → (s.ep 0).committed.length < bankCount (s.ep 0).banks
  freeReport : k.freeReport = true → (s.ep s.params.reportEp).en = true →
    (s.ep s.params.reportEp).committed.length < bankCount (s.ep s.params.reportEp).banks

/-- The lines of a write sequence, from the read of a byte to the commit. -/
def inBank (l : Line) : Bool :=
  match l with
  | .fifoWrite _ => true
  | .readReport _ => true
  | .cwByte _ => true
  | .cwSource _ => true
  | .cwAddPos _ => true
  | .cwSetPos _ => true
  | .cwSubRem _ => true
  | .cwSetRem _ => true
  | .cwSetLast _ => true
  | .commit => true
  | .commitClr => true
  | _ => false

/-- `k` where a condition holds. -/
def Room.when (k : Room) (b : Bool) : Option Room := if b then some k else none

/-- Whether a control transfer may write endpoint 0: selected, RXSTP[0] = 0 in a transfer, a bank free. -/
def Room.control (k : Room) : Bool := k.sel == some 0 && k.acked && k.free0

/-- What is known after a write of one byte, where there is room for it. -/
def Room.write (p : Params) (k : Room) : Option Room :=
  { k with cur := k.cur + 1 }.when
    ((k.control && decide (k.cur < 32)) || (k.sel == some p.reportEp && k.freeReport && decide (k.cur < 8)))

/-- What is known after a line and all the lines it puts in front, where it is safe at `k`: no FIFO_WRITE or COMMIT of
it can find no room. -/
def roomLine (p : Params) (k : Room) (l : Line) : Option Room :=
  match l with
  | .select e => some { k with sel := some e }
  | .selectReport => some { k with sel := some p.reportEp }
  | .ackSetup => some { k with acked := k.busy }
  | .commit => { k with free0 := false, cur := 0 }.when k.control
  | .commitClr => { k with freeReport := false, cur := 0 }.when (k.sel == some p.reportEp && k.freeReport)
  | .fifoWrite _ => k.write p
  | .readReport _ => k.write p
  | .cwByte _ => k.write p
  | .cwSource _ => k.write p
  | .epConfigure c => k.when (k.sel.any fun e => e != 0 && p.epConfig e == some c)
  | .setPhase ph =>
    some { k with busy := ph != .idle && ph != .halted, acked := k.acked && (ph != .idle && ph != .halted) }
  | .setI v => some (if v then .start true else { k with ie := false })
  | .restoreI => some (.start true)
  | .boot => some (.start true)
  | .readDevint => some (.start k.ie)
  | .tickConfiguration => some (.start k.ie)
  | .tickRate => some (.start k.ie)
  | .tickDivide => some (.start k.ie)
  | .tickDivided => some (.start k.ie)
  | .tickCount => some (.start k.ie)
  | .tickCompare => some (.start k.ie)
  | .tickCompareRate _ => some (.start k.ie)
  | .autoStatus => { k with freeReport := false }.when (k.sel == some p.reportEp)
  | .setupStatus => (Room.start k.ie).when (k.sel == some 0)
  | .dispatch => (Room.start k.ie).when k.control
  | .dispatchOn _ => (Room.start k.ie).when k.control
  | .operand _ _ => (Room.start k.ie).when k.control
  | .descLength _ _ => (Room.start k.ie).when k.control
  | .waitTxrdy => some { k with free0 := true }
  | .cwWait => { k with free0 := false }.when (k.sel == some 0 && k.acked)
  | .cwFill => { k with free0 := false }.when k.control
  | .cwLoop _ => { k with free0 := false }.when (k.sel == some 0 && k.acked)
  | .syncCheck => some (.start true)
  | .remapReport _ => some (.start true)
  | .sendEntry => some (.start true)
  | .sendPoll => (Room.start true).when (k.sel == some p.reportEp && !k.ie)
  | .sendPollAgain => (Room.start true).when (k.sel == some p.reportEp && !k.ie)
  | .sendConfiguration => some (.start true)
  | .sendExpired => some (.start true)
  | _ => some k

/-- `roomLine`, where a line outside a write sequence stands with every CUR empty, and where nothing is relied on once
`I` may be 1, since a handler may run there. -/
def roomAfter (p : Params) (k : Room) (l : Line) : Option Room :=
  if !inBank l && k.cur != 0 then none
  else match roomLine p k l with
    | some k' => if k'.ie then (Room.start true).when (k'.cur == 0) else some k'
    | none => none

/-- A position is safe at `k`: every line of it is, and at its end every CUR is empty. -/
def roomSafe (p : Params) : Room → List Line → Bool
  | k, [] => k.cur == 0
  | k, l :: ls =>
    match roomAfter p k l with
    | some k' => roomSafe p k' ls
    | none => false

/-- What endpoint registers may hold: at most BANKS packets wait (R297(b)); a disabled endpoint holds nothing; endpoint 0
has one bank of 32 bytes and every other enabled endpoint its entry of EP_TABLE; an unread SETUP has flushed
endpoint 0. -/
structure PortShape (s : State) : Prop where
  banks : ∀ e, (s.ep e).committed.length ≤ bankCount (s.ep e).banks
  disabled : ∀ e, (s.ep e).en = false → (s.ep e).cur = [] ∧ (s.ep e).committed = []
  control : (s.ep 0).en = true → (s.ep 0).banks = .one ∧ (s.ep 0).size = 32
  table : ∀ e, e ≠ 0 → (s.ep e).en = true →
    ∃ c, s.params.epConfig e = some c ∧ (s.ep e).banks = c.banks ∧ (s.ep e).size = c.size
  flushed : (s.ep 0).rxstp = true → (s.ep 0).cur = [] ∧ (s.ep 0).committed = []

/-- The position of the running context. -/
def State.position (s : State) : List Line := if s.ctx = .main then s.mainPc else s.isrPc

/-- The room invariant (R292, R297(b)): for valid parameters, the shape of the endpoints, and, before the halt, a running
position that is safe at what holds in the state; while a handler runs, MAIN's position is safe with nothing known. -/
def State.roomInv (s : State) : Prop :=
  s.params.valid = true ∧ PortShape s ∧
  (s.halted = false →
    (∃ k, RoomHolds k s ∧ roomSafe s.params k s.position = true) ∧
    (s.ctx ≠ .main → s.ie = false ∧ roomSafe s.params (.start true) s.mainPc = true))

end Sys2Proof.Machine
end

