-- ==== Sys2Proof/Certificates/Slice0/Obligations.lean ====
section
/-! DEFINITION. The statements for the provers. A statement about an operation gives the whole next state as a record
update, so what the update does not name is unchanged. -/

open Sys2Proof Sys2Proof.Machine

/-! ## Decoding and encoding -/

/-- For every well-formed operation, decoding its encoding (with any bytes behind it) gives it back, operands and all
(30_encoding.md R110, R114, R125; the operand bytes after an operation code are the model's choice, log 4). -/
def Obligations.DecodeEncode : Prop :=
  ∀ (i : Instr) (rest : List Byte), i.wf = true → decodeBytes i.format (encode i ++ rest) = .ok (i, rest)

/-- The other direction: what decodes is well-formed, belongs to the space it was read in, and is spelled by exactly the
bytes it was read from (R110, R114, R125; log 4). -/
def Obligations.EncodeDecode : Prop :=
  ∀ (format : OpFormat) (bs rest : List Byte) (i : Instr), decodeBytes format bs = .ok (i, rest) →
    i.wf = true ∧ i.format = format ∧ encode i ++ rest = bs

/-- Words written out from R110 to R114 and R125, one or more per family, and the operation each spells. -/
def Obligations.DecodeWords : Prop :=
  decodeBytes .setup [0x01, 0x05, 0x85, 0, 0, 0, 0, 0] =
    .ok (.setAddress 1 { wValue := 0x0085, wIndex := 0, wLength := 0 }, []) ∧
  decodeBytes .setup [0xA2, 0x01, 0, 0, 0x83, 0, 0, 0] =
    .ok (.clearFeature true true { wValue := 0, wIndex := 0x0083, wLength := 0 }, []) ∧
  decodeBytes .setup [0x21, 0x0A, 0x05, 0x7D, 0x01, 0, 0, 0] =
    .ok (.setIdle 1 { wValue := 0x7D05, wIndex := 1, wLength := 0 }, []) ∧
  decodeBytes .setup [0x80, 0x08, 0, 0, 0, 0, 1, 0] =
    .ok (.fatalUnhandled { b0 := 0x80, b1 := 0x08, b2 := 0, b3 := 0, b4 := 0, b5 := 0, b6 := 1, b7 := 0 }, []) ∧
  decodeBytes .code [0x02] = .ok (.epIsr, []) ∧
  decodeBytes .code [0x06] = .ok (.setupIntake, []) ∧
  decodeBytes .code [0x16, 0x07] = .ok (.vote 7, []) ∧
  decodeBytes .code [0x20, 0x04] = .ok (.select 4, []) ∧
  decodeBytes .code [0x43, 0x05, 0x03] = .ok (.hIn 5 3, []) ∧
  decodeBytes .code [0x09] = .error (.unusedCode 0x09)

/-- The dispatch key and table (R113, R114): the key is bmRequestType below bRequest; of rows 1 to 6, two different ones
match a key only if it is 0x01A2 and they are rows 3 and 6, of which row 3 is taken; row 7 is taken exactly by the keys
none of them matches. -/
def Obligations.DispatchRows : Prop :=
  (∀ r : UsbRequest, r.key = r.bmRequestType.setWidth 16 ||| (r.bRequest.setWidth 16 <<< 8)) ∧
  (∀ (k : Half) (r r' : RequestRow), r ∈ dispatchTable.take 6 → r' ∈ dispatchTable.take 6 →
    k &&& r.mask = r.pattern → k &&& r'.mask = r'.pattern → r ≠ r' →
    k = 0x01A2 ∧ (r.request = .clearFeature ∧ r'.request = .getReport ∨
      r.request = .getReport ∧ r'.request = .clearFeature)) ∧
  dispatchRow 0x01A2 = .clearFeature ∧
  (∀ (k : Half) (r : RequestRow), r ∈ dispatchTable.take 6 → k &&& r.mask = r.pattern → k ≠ 0x01A2 →
    dispatchRow k = r.request) ∧
  (∀ k : Half, dispatchRow k = .fatal ↔ ∀ r ∈ dispatchTable.take 6, k &&& r.mask ≠ r.pattern)

/-! ## The step -/

/-- A step runs the operation the schedule has due: what its bytes decode to, on the state with the entry taken off (no
more is around exec on this machine); a word placed by withFetchWord runs at the very next step, in the context the
operation belongs to; with nothing due, an entry still waiting (for CPU steps, or for the quiescent point that ends a
script's `cpu RUN`, 70_reset_and_hazards.md R413), or an operation of another context due, a step is the CPU's own step;
bytes that spell no operation are refused. The schedule is the model's own (log 3, log 17, log 30). -/
def Obligations.StepRunsDecoded : Prop :=
  (∀ (s : State) (entry : ScriptEntry) (entries : List ScriptEntry) (i : Instr) (tail : List Byte),
    s.script = entry :: entries → (entry.wait = .steps 0 ∨ entry.wait = .quiescent ∧ s.quiescent = true) →
    decodeBytes entry.format entry.bytes = .ok (i, tail) → runsNow i s = true →
    step s = exec i { s with script := entries }) ∧
  (∀ (s : State) (nbits w : Nat) (i : Instr), decodeTableWord nbits w = some i →
    step (s.withFetchWord nbits w) = exec i { s with ctx := (homeCtx i).getD s.ctx }) ∧
  (∀ s : State, s.script = [] → step s = .next (cpuStep s)) ∧
  (∀ (s : State) (entry : ScriptEntry) (entries : List ScriptEntry) (n : Nat),
    s.script = entry :: entries → entry.wait = .steps (n + 1) →
    step s = .next (cpuStep { s with script := { entry with wait := .steps n } :: entries })) ∧
  (∀ (s : State) (entry : ScriptEntry) (entries : List ScriptEntry),
    s.script = entry :: entries → entry.wait = .quiescent → s.quiescent = false → step s = .next (cpuStep s)) ∧
  (∀ (s : State) (entry : ScriptEntry) (entries : List ScriptEntry) (i : Instr) (tail : List Byte),
    s.script = entry :: entries → (entry.wait = .steps 0 ∨ entry.wait = .quiescent ∧ s.quiescent = true) →
    decodeBytes entry.format entry.bytes = .ok (i, tail) → runsNow i s = false → step s = .next (cpuStep s)) ∧
  (∀ (s : State) (entry : ScriptEntry) (entries : List ScriptEntry) (e : DecodeError),
    s.script = entry :: entries → (entry.wait = .steps 0 ∨ entry.wait = .quiescent ∧ s.quiescent = true) →
    decodeBytes entry.format entry.bytes = .error e →
    step s = .refused (.undecodable entry.format entry.bytes))

/-! ## The port primitives (40_port.md) -/

/-- SELECT, READ_STATUS, READ_FRAME, READ_DEVINT (R150, R151, R162, R163): a read answers its snapshot as the returned
value and has no side effect. TXRDY and WRAL are the derived flags of 10_state.md R49. -/
def Obligations.PortSelectAndReads : Prop :=
  ∀ (e : EpNum) (s : State), s.halted = false →
    exec (.select e) s = .next { s with epSel := e } ∧
    exec .readStatus s = .next { s with ret := .status (
      { rxstp := (s.ep s.epSel).rxstp
        rxout := (s.ep s.epSel).rxout
        txrdy := (s.ep s.epSel).en && decide ((s.ep s.epSel).committed.length < bankCount (s.ep s.epSel).banks)
        wral := (s.ep s.epSel).en && decide ((s.ep s.epSel).committed.length < bankCount (s.ep s.epSel).banks) &&
          decide ((s.ep s.epSel).cur.length < (s.ep s.epSel).size)
        nakin := (s.ep s.epSel).nakin
        stalled := (s.ep s.epSel).stalled }) } ∧
    exec .readFrame s = .next { s with ret := .frame s.frame } ∧
    exec .readDevint s = .next { s with ret := .events { eorst := s.eorst, sof := s.sof, other := s.other } }

/-- ACK_SETUP, STALL and EP_RESET (R152, R157, R158): ACK_SETUP, used with EP_SEL = 0, clears RXSTP[0] and RXOUT[0] in one
write, and TXRDY[0] stays; EP_RESET keeps the configuration and RXSTPE. -/
def Obligations.PortFlags : Prop :=
  ∀ s : State, s.halted = false →
    (s.epSel = 0 → ∃ t, exec .ackSetup s = .next t ∧
      t = s.setEp 0 { s.ep 0 with rxstp := false, rxout := false } ∧ (t.ep 0).txrdy = (s.ep 0).txrdy) ∧
    exec .stall s = .next (s.setEp s.epSel { s.ep s.epSel with stallReq := true }) ∧
    exec .epReset s = .next (s.setEp s.epSel
      { s.ep s.epSel with
        outbuf := [], cur := [], committed := [], rxstp := false, rxout := false, nakin := false,
        stalled := false, stallReq := false })

/-- COMMIT and COMMIT_CLR (R153, R154): dropped on a disabled endpoint, PORT_MISUSE and no write with no free bank, else
the bank is handed over, and COMMIT_CLR clears NAKIN, STALLED and RXSTP of the endpoint with it. The code of PORT_MISUSE
is 2 (60_exceptions.md R370, R380). -/
def Obligations.PortCommits : Prop :=
  (∀ (p : PortPrimitive) (e : EpNum), (FaultRecord.portMisuse p e).code = 2) ∧
  ∀ s : State, s.halted = false →
    exec .commit s = .next
      (if (s.ep s.epSel).en = false then s
       else if bankCount (s.ep s.epSel).banks ≤ (s.ep s.epSel).committed.length then
         { s with fault := s.fault ++ [.portMisuse .commit s.epSel], halted := true, ie := false }
       else s.setEp s.epSel
         { s.ep s.epSel with committed := (s.ep s.epSel).committed ++ [(s.ep s.epSel).cur], cur := [] }) ∧
    exec .commitClr s = .next
      (if (s.ep s.epSel).en = false then s
       else if bankCount (s.ep s.epSel).banks ≤ (s.ep s.epSel).committed.length then
         { s with fault := s.fault ++ [.portMisuse .commitClr s.epSel], halted := true, ie := false }
       else s.setEp s.epSel
         { s.ep s.epSel with
           committed := (s.ep s.epSel).committed ++ [(s.ep s.epSel).cur], cur := [],
           nakin := false, stalled := false, rxstp := false })

/-- FIFO_READ and FIFO_WRITE (R155, R156): the oldest byte leaves OUTBUF, and from an empty one some byte comes and nothing
leaves (`draws` is the model's counter of free values, log 9); a written byte is dropped on a disabled endpoint,
PORT_MISUSE and no write with no room, else appended to CUR. -/
def Obligations.PortFifo : Prop :=
  ∀ (c : Byte) (s : State), s.halted = false →
    (∀ b rest, (s.ep s.epSel).outbuf = b :: rest →
      exec .fifoRead s = .next { s.setEp s.epSel { s.ep s.epSel with outbuf := rest } with ret := .byte b }) ∧
    ((s.ep s.epSel).outbuf = [] →
      ∃ b n, exec .fifoRead s = .next { s with ret := .byte b, draws := n }) ∧
    exec (.fifoWrite c) s = .next
      (if (s.ep s.epSel).en = false then s
       else if bankCount (s.ep s.epSel).banks ≤ (s.ep s.epSel).committed.length ∨
           (s.ep s.epSel).size ≤ (s.ep s.epSel).cur.length then
         { s with fault := s.fault ++ [.portMisuse .fifoWrite s.epSel], halted := true, ie := false }
       else s.setEp s.epSel { s.ep s.epSel with cur := (s.ep s.epSel).cur ++ [c] })

/-- EP_CONFIGURE, EP0_INIT, ARM_SETUP_IRQ, SET_DEVADDR, CLEAR_DEVINT (R159, R160, R165, R161, R164). DIR[0] is not used
(R45) and stays. EP0_INIT is used with EP_SEL = 0. -/
def Obligations.PortConfiguration : Prop :=
  ∀ (c : EndpointConfig) (a : DevAddr) (s : State), s.halted = false →
    exec (.epConfigure c) s = .next (s.setEp s.epSel
      { s.ep s.epSel with
        en := true, type := c.type, dir := c.direction, banks := c.banks, size := c.size, alloc := c.alloc }) ∧
    (s.epSel = 0 → exec .ep0Init s = .next (s.setEp 0
      { s.ep 0 with
        en := true, type := .control, banks := .one, size := 32, alloc := true, outbuf := [], cur := [],
        committed := [], rxstp := false, rxout := false, nakin := false, stalled := false, stallReq := false })) ∧
    exec .armSetupIrq s = .next (s.setEp 0 { s.ep 0 with rxstpe := true }) ∧
    exec (.setDevaddr a) s = .next { s with devAddr := a, adden := true } ∧
    exec .clearDevint s = .next { s with eorst := false, sof := false, other := false }

/-! ## The host actions (40_port.md) -/

/-- H_BUS_RESET, H_SOF and H_DEVEVENT_OTHER (R171, R172, R176). -/
def Obligations.HostBusEvents : Prop :=
  ∀ s : State, s.attached = true →
    (∃ t, exec .hBusReset s = .next t ∧
      t = { s with devAddr := 0, adden := false, eorst := true, eps := t.eps } ∧
      ∀ e, t.ep e =
        { s.ep e with
          en := false, rxstpe := false, outbuf := [], cur := [], committed := [], rxstp := false, rxout := false,
          nakin := false, stalled := false, stallReq := false }) ∧
    exec .hSof s = .next { s with frame := BitVec.ofNat 11 ((s.frame.toNat + 1) % 2 ^ 11), sof := true } ∧
    exec .hDeveventOther s = .next { s with other := true }

/-- H_SETUP under its guard (R170, R173): NONE at another address or with endpoint 0 disabled, else the packet is taken,
endpoint 0 flushed and its stall cleared. -/
def Obligations.HostSetup : Prop :=
  ∀ (a : DevAddr) (p : List Byte) (s : State), s.attached = true →
    (s.ce.phase = .idle ∨ s.ce.phase = .halted) → (s.ep 0).rxstp = false → p.length = 8 →
    exec (.hSetup a p) s = .next
      (if a ≠ (if s.adden then s.devAddr else 0) ∨ (s.ep 0).en = false then
         { s with hostRx := s.hostRx ++ [(0, .noAnswer)] }
       else
         { s.setEp 0
             { s.ep 0 with
               outbuf := p, cur := [], committed := [], stallReq := false, stalled := false, rxstp := true } with
           hostRx := s.hostRx ++ [(0, .ack)] })

/-- H_IN, and H_OUT with a packet of at most SIZE[e] bytes (R170, R174, R175): only endpoint 0 takes data,
and one packet of it. That an OUT to endpoint 0 is answered so after the fatal halt too, where 60_exceptions.md R375 also
says NAK, is the model's choice (log 31). -/
def Obligations.HostInAndOut : Prop :=
  (∀ (a : DevAddr) (e : EpNum) (s : State), s.attached = true →
    exec (.hIn a e) s = .next
      (if a ≠ (if s.adden then s.devAddr else 0) ∨ (s.ep e).en = false then
         { s with hostRx := s.hostRx ++ [(e, .noAnswer)] }
       else if (s.ep e).stallReq then
         { s.setEp e { s.ep e with stalled := true } with hostRx := s.hostRx ++ [(e, .stall)] }
       else match (s.ep e).committed with
         | pkt :: rest => { s.setEp e { s.ep e with committed := rest } with hostRx := s.hostRx ++ [(e, .data pkt)] }
         | [] => { s.setEp e { s.ep e with nakin := true } with hostRx := s.hostRx ++ [(e, .nak)] })) ∧
  (∀ (a : DevAddr) (e : EpNum) (d : List Byte) (s : State), s.attached = true →
    d.length ≤ (s.ep e).size →
    exec (.hOut a e d) s = .next
      (if a ≠ (if s.adden then s.devAddr else 0) ∨ (s.ep e).en = false then
         { s with hostRx := s.hostRx ++ [(e, .noAnswer)] }
       else if (s.ep e).stallReq then
         { s.setEp e { s.ep e with stalled := true } with hostRx := s.hostRx ++ [(e, .stall)] }
       else if e = 0 ∧ (s.ep 0).rxout = false then
         { s.setEp 0 { s.ep 0 with outbuf := d, rxout := true } with hostRx := s.hostRx ++ [(0, .ack)] }
       else { s with hostRx := s.hostRx ++ [(e, .nak)] }))

/-- What stops or has no effect by name. No host action does anything while the device is not attached (R170; that it is
then skipped is the model's choice, log 11); a SETUP inside a transfer, over an unread one or not of 8 bytes, and an OUT
longer than the bank it reaches, are not offered (R177 HA1, HA2; refused by name, log 12); a DECODE_GROUP of a group
outside the raw bytes, which no well-formed operation asks for, faults (log 24). -/
def Obligations.StopsByName : Prop :=
  (∀ (i : Instr) (s : State), isHostAction i = true → s.attached = false → exec i s = .next s) ∧
  (∀ (a : DevAddr) (p : List Byte) (s : State), s.attached = true →
    ((s.ce.phase ≠ .idle ∧ s.ce.phase ≠ .halted) ∨ (s.ep 0).rxstp = true ∨ p.length ≠ 8) →
    exec (.hSetup a p) s = .refused (.hostActionExcluded "H_SETUP")) ∧
  (∀ (a : DevAddr) (e : EpNum) (d : List Byte) (s : State), s.attached = true →
    a = (if s.adden then s.devAddr else 0) → (s.ep e).en = true → (s.ep e).size < d.length →
    exec (.hOut a e d) s = .refused (.hostActionExcluded "H_OUT")) ∧
  (∀ (raw : List Byte) (i : Nat) (s : State), raw.length < 4 * i + 4 →
    exec (.decodeGroup raw i) s = .fault (.addressOutsideSpace (4 * i)))

/-- A host action changes only port state and the host_rx trace: never the CPU context, a block variable, a memory, an
interrupt enable of the device, the attachment, or another trace (40_port.md section 2). -/
def Obligations.HostNeverWritesBlock : Prop :=
  ∀ (i : Instr) (s t : State), isHostAction i = true → exec i s = .next t →
    ∃ (devAddr : DevAddr) (adden : Bool) (eps : Vector Endpoint 5) (frame : Frame) (eorst sof other : Bool)
      (seen : List (EpNum × HostOutcome)),
      t = { s with devAddr, adden, eps, frame, eorst, sof, other, hostRx := s.hostRx ++ seen }

/-! ## The decoder (44_decoder.md) -/

/-- VOTE, DECODE_RAW_BYTE and SYNC_CHECK (R330, R331, R334): 1 exactly when more than two bits of the nibble are set; the
votes of the high and of the low nibble; whether Raw[0] is 0x11. -/
def Obligations.DecoderVotesAndSync : Prop :=
  ∀ (n : BitVec 4) (b : Byte) (s : State), s.halted = false →
    exec (.vote n) s = .next { s with ret := .flag (decide (2 < (List.range 4).countP n.getLsbD)) } ∧
    exec (.decodeRawByte b) s = .next
      { s with
        ret := .bits (decide (2 < (List.range 4).countP (fun k => b.getLsbD (4 + k))))
          (decide (2 < (List.range 4).countP b.getLsbD)) } ∧
    exec .syncCheck s = .next { s with ret := .flag (decide (memRead s.raw 0 = 0x11)) }

/-- DECODE_GROUP (R332): bits 7 - 2k and 6 - 2k of the answer are the votes of the high and the low nibble of raw byte
4i + k, for k in 0..3; nothing else changes. -/
def Obligations.DecoderGroup : Prop :=
  ∀ (raw : List Byte) (i : Nat) (s : State), s.halted = false → raw.length = 32 → i < 8 →
    ∃ v : Byte, exec (.decodeGroup raw i) s = .next { s with ret := .byte v } ∧
      ∀ k, k < 4 →
        v.getLsbD (7 - 2 * k) = decide (2 < (List.range 4).countP (fun j => (raw.getD (4 * i + k) 0).getLsbD (4 + j))) ∧
        v.getLsbD (6 - 2 * k) = decide (2 < (List.range 4).countP (raw.getD (4 * i + k) 0).getLsbD)

/-- Round trip (R338): with nibbles of 3 or 4 set bits for each 1 of v and of 0, 1 or 2 for each 0, most significant bit
first and two nibbles to a raw byte, high nibble first, DECODE_GROUP gives v back. -/
def Obligations.DecoderRoundTrip : Prop :=
  ∀ (v : Byte) (n : Fin 8 → BitVec 4) (raw : List Byte) (i : Nat) (s : State), s.halted = false →
    raw.length = 32 → i < 8 →
    (∀ k : Fin 8, v.getLsbD (7 - k.val) = decide (2 < (List.range 4).countP (n k).getLsbD)) →
    raw.getD (4 * i) 0 = n 0 ++ n 1 → raw.getD (4 * i + 1) 0 = n 2 ++ n 3 →
    raw.getD (4 * i + 2) 0 = n 4 ++ n 5 → raw.getD (4 * i + 3) 0 = n 6 ++ n 7 →
    exec (.decodeGroup raw i) s = .next { s with ret := .byte v }

/-- DECODE (R333): CState[i] is DECODE_GROUP(Raw, i) for each of its 8 bytes; nothing else changes. -/
def Obligations.DecoderDecode : Prop :=
  ∀ s : State, s.halted = false → s.memoryWf →
    ∃ m, exec .decode s = .next { s with cstate := m } ∧
      (∀ (a : Nat) (u : State), a < 8 → u.halted = false →
        exec (.decodeGroup (memBytes s.raw 32) a) u = .next { u with ret := .byte (memRead m a) }) ∧
      (∀ a, 8 ≤ a → memRead m a = memRead s.cstate a)

/-- REMAP (R336): an answer that depends on the parameters and the eight bytes alone, of eight bytes, with
127 - c[JOY_Y_IN] at JOY_Y_OUT, every other axis byte (bytes 2 to 7, R120) affine in one decoded byte, modulo 256, and
every bit of the button bytes (0 and 1) the parameter's function of the decoded bits. Which transform an axis has and
which function a button bit is are parameters (log 10: R336 fixes neither, and REMAP's form is the model's reading). -/
def Obligations.DecoderRemap : Prop :=
  ∀ (c : List Byte) (p : Params), c.length = 8 →
    ∃ r : List Byte, (∀ s : State, s.params = p → s.halted = false → exec (.remap c) s = .next { s with ret := .report r }) ∧
      r.length = 8 ∧
      r.getD p.joyYOut.val 0 = BitVec.ofInt 8 (127 - ((c.getD p.joyYIn.val 0).toNat : Int)) ∧
      (∀ k, 2 ≤ k → k < 8 → k ≠ p.joyYOut.val →
        ∃ m : AxisMap, m ∈ [p.axes.x, p.axes.y, p.axes.z, p.axes.rx, p.axes.ry, p.axes.rz][k - 2]? ∧
          (r.getD k 0).toNat = (m.scale.toNat * (c.getD m.src.val 0).toNat + m.offset.toNat) % 256) ∧
      (∀ j k, j < 2 → k < 8 → j ≠ p.joyYOut.val →
        ∃ tree : BitTree, tree ∈ (if j = 0 then p.buttons.byte0 else p.buttons.byte1)[k]? ∧
          (r.getD j 0).getLsbD k = BitTree.eval tree c)

/-! ## MAIN's operations (43_report.md, 44_decoder.md) -/

/-- EXPIRED (R294): the frames since t0, modulo 2048, against the budget. -/
def Obligations.ExpiredPredicate : Prop :=
  ∀ budget t0 f : Frame, expired budget t0 f = true ↔ budget.toNat ≤ (f.toNat + 2048 - t0.toNat) % 2048

/-- REPORT_UPDATE (R296): the eight bytes of JoypadReport, and the slot that saves `I`; `I` is on return what it was on
entry. -/
def Obligations.ReportUpdate : Prop :=
  ∀ (r : List Byte) (s : State), s.halted = false → s.memoryWf → r.length = 8 →
    ∃ m, exec (.reportUpdate r) s = .next { s with report := m, sendL := { s.sendL with s := s.ie } } ∧
      ∀ a, memRead m a = if a < 8 then r.getD a 0 else memRead s.report a

/-- SEND (R293, R295): not configured, nothing is written; configured and the report endpoint has room for the report, its
eight bytes are committed, NAKIN, STALLED and RXSTP cleared, the idle count reset, and `I` is what it was; configured and
the endpoint full, the first poll opens and closes the interrupt window once and SEND stands before its next poll,
nothing sent, `I` = 0 (log 7: the whole operation pauses there; a budget of 1 frame or more, R8). That a report endpoint
with WRAL = 1 has room for the whole report in every run is what RoomKept says (R292, R297(b)). -/
def Obligations.Send : Prop :=
  ∀ s : State, s.halted = false →
    (s.usbConfiguration = 0 → exec .send s = .next { s with ret := .sent 1 }) ∧
    (s.usbConfiguration ≠ 0 → (s.ep s.params.reportEp).en = true →
      (s.ep s.params.reportEp).committed.length < bankCount (s.ep s.params.reportEp).banks →
      (s.ep s.params.reportEp).cur.length + 8 ≤ (s.ep s.params.reportEp).size →
      exec .send s = .next
        { s.setEp s.params.reportEp
            { s.ep s.params.reportEp with
              committed := (s.ep s.params.reportEp).committed ++
                [(s.ep s.params.reportEp).cur ++ (List.range 8).map (memRead s.report)]
              cur := [], nakin := false, stalled := false, rxstp := false } with
          sendL := { s := s.ie, t0 := s.frame }, epSel := s.params.reportEp, idleCounter := 0, ret := .sent 0 }) ∧
    (s.usbConfiguration ≠ 0 → s.ctx = .main → s.params.sendBudget ≠ 0 → (s.ep s.params.reportEp).wral = false →
      exec .send s = .next
        { s with
          sendL := { s := s.ie, t0 := s.frame }, ie := false, epSel := s.params.reportEp,
          mainPc := .sendPollAgain :: s.mainPc })

/-- The rest of SEND, step by step from its poll, with no HOST action and no interrupt pending (R293, R294, R295): when
WRAL has become 1 it commits the report and answers OK; when it has not and the block is de-configured it answers
ERR_NOT_CONFIGURED; when it has not, the block is configured and the budget has run out it answers ERR_TIMEOUT; both with
no FIFO write and the saved `I` restored; and while the budget lasts it polls again, nothing changed. -/
def Obligations.SendResumes : Prop :=
  ∀ (s : State) (rest : List Line), s.halted = false → s.ctx = .main → s.ie = false → s.script = [] →
    s.mainPc = .sendPollAgain :: rest → s.epSel = s.params.reportEp → s.devPending = false → s.epPending = false →
    ((s.ep s.epSel).en = true → (s.ep s.epSel).committed.length < bankCount (s.ep s.epSel).banks →
      (s.ep s.epSel).cur.length + 8 ≤ (s.ep s.epSel).size →
      runSteps 21 s = .next
        { s.setEp s.epSel
            { s.ep s.epSel with
              committed := (s.ep s.epSel).committed ++
                [(s.ep s.epSel).cur ++ (List.range 8).map (memRead s.report)]
              cur := [], nakin := false, stalled := false, rxstp := false } with
          idleCounter := 0, ie := s.sendL.s, ret := .sent 0, mainPc := rest }) ∧
    ((s.ep s.epSel).wral = false → s.usbConfiguration = 0 →
      runSteps 4 s = .next { s with ie := s.sendL.s, ret := .sent 1, mainPc := rest }) ∧
    ((s.ep s.epSel).wral = false → s.usbConfiguration ≠ 0 → expired s.params.sendBudget s.sendL.t0 s.frame = true →
      runSteps 5 s = .next { s with ie := s.sendL.s, ret := .sent 2, mainPc := rest }) ∧
    ((s.ep s.epSel).wral = false → s.usbConfiguration ≠ 0 → expired s.params.sendBudget s.sendL.t0 s.frame = false →
      runSteps 6 s = .next s)

/-- POLL_CYCLE (R335). With a bad sync byte: exactly one POLL and one PROBE, the raw bytes taken, and nothing else: no
decode, no report update, no send. With the sync byte: POLL, then DECODE of the bytes taken, REPORT_UPDATE with REMAP of
CState, and SEND. The memories are in canonical form (MemoryWfKept), as their byte by byte writes need. -/
def Obligations.PollCycle : Prop :=
  (∀ (raw : List Byte) (s : State), s.halted = false → raw.length = 32 → raw.getD 0 0 ≠ 0x11 →
    s.memoryWf →
    ∃ m, exec (.pollCycle raw) s = .next { s with ext := s.ext ++ [.poll, .probe], raw := m, ret := .skipped } ∧
      ∀ a, a < 32 → memRead m a = raw.getD a 0) ∧
  (∀ (raw : List Byte) (s : State), s.halted = false → raw.length = 32 → raw.getD 0 0 = 0x11 → s.memoryWf →
    ∃ (m : Memory) (decoded remapped updated : State) (r : List Byte),
      (∀ a, a < 32 → memRead m a = raw.getD a 0) ∧
      exec .decode { s with ext := s.ext ++ [.poll], raw := m } = .next decoded ∧
      exec (.remap (memBytes decoded.cstate 8)) decoded = .next remapped ∧ remapped.ret = .report r ∧
      exec (.reportUpdate r) decoded = .next updated ∧
      exec (.pollCycle raw) s = exec .send updated)

/-! ## DEV_ISR (41_enumeration.md, 43_report.md) -/

/-- EORST_HANDLER (R202), and that it is idempotent in every state (R206). -/
def Obligations.EndOfReset : Prop :=
  (∀ s : State, s.halted = false →
    exec .eorstHandler s = .next
      { s.setEp 0
          { s.ep 0 with
            en := true, type := .control, banks := .one, size := 32, alloc := true, rxstpe := true, outbuf := [],
            cur := [], committed := [], rxstp := false, rxout := false, nakin := false, stalled := false,
            stallReq := false } with
        epSel := 0, usbConfiguration := 0 }) ∧
  (∀ s t : State, exec .eorstHandler s = .next t → exec .eorstHandler t = .next t)

/-- AUTO_WRITE (R292): the report endpoint is selected and stays so; with WRAL 0 nothing is written; with room for the
report, which by RoomKept WRAL 1 means in every run, it is committed and NAKIN, STALLED and RXSTP cleared. -/
def Obligations.AutoWrite : Prop :=
  ∀ s : State, s.halted = false →
    ((s.ep s.params.reportEp).wral = false → exec .autoWrite s = .next { s with epSel := s.params.reportEp }) ∧
    ((s.ep s.params.reportEp).en = true →
      (s.ep s.params.reportEp).committed.length < bankCount (s.ep s.params.reportEp).banks →
      (s.ep s.params.reportEp).cur.length + 8 ≤ (s.ep s.params.reportEp).size →
      exec .autoWrite s = .next
        { s.setEp s.params.reportEp
            { s.ep s.params.reportEp with
              committed := (s.ep s.params.reportEp).committed ++
                [(s.ep s.params.reportEp).cur ++ (List.range 8).map (memRead s.report)]
              cur := [], nakin := false, stalled := false, rxstp := false } with
          epSel := s.params.reportEp })

/-- AUTO_TICK (R290), all its cases. -/
def Obligations.AutoTick : Prop :=
  ∀ s : State, s.halted = false →
    (s.usbConfiguration = 0 ∨ s.idleRate = 0 → exec .autoTick s = .next s) ∧
    (s.usbConfiguration ≠ 0 → s.idleRate ≠ 0 → s.sofDiv ≠ 3 →
      exec .autoTick s = .next { s with sofDiv := s.sofDiv + 1 }) ∧
    (s.usbConfiguration ≠ 0 → s.idleRate ≠ 0 → s.sofDiv = 3 → s.idleCounter + 1 ≠ s.idleRate →
      exec .autoTick s = .next { s with sofDiv := 0, idleCounter := s.idleCounter + 1 }) ∧
    (s.usbConfiguration ≠ 0 → s.idleRate ≠ 0 → s.sofDiv = 3 → s.idleCounter + 1 = s.idleRate →
      exec .autoTick s = exec .autoWrite { s with sofDiv := 0, idleCounter := 0 })

/-- The autonomous cadence (R291): with the path active, rate R, and count and divider at 0, fewer than 4 * R serviced SOF
events change the divider and the count alone; the 4 * R-th makes the one AUTO_WRITE, with the count back at 0. -/
def Obligations.AutonomousCadence : Prop :=
  ∀ (s : State) (k : Nat), s.halted = false → s.usbConfiguration ≠ 0 → s.idleRate ≠ 0 → s.idleCounter = 0 →
    s.sofDiv = 0 →
    (k < 4 * s.idleRate.toNat →
      runOps (List.replicate k .autoTick) s =
        .next { s with sofDiv := BitVec.ofNat 2 k, idleCounter := BitVec.ofNat 8 (k / 4) }) ∧
    (k = 4 * s.idleRate.toNat →
      runOps (List.replicate k .autoTick) s = exec .autoWrite s)

/-- DEV_ISR (R201, R371, R374): entered when it may be, it takes its snapshot, clears all three event flags, runs
EORST_HANDLER and then AUTO_TICK as the snapshot says, and returns to MAIN with `I` = 1. In a state no run reaches
(R292; RoomKept is the invariant that rules it out), where the report endpoint's bank has room for some bytes and not for
a report, AUTO_TICK ends in PORT_MISUSE and there is no return. -/
def Obligations.DevIsr : Prop :=
  ∀ s : State, s.canEnter .devIsr = true →
    ∃ afterReset afterTick : State,
      (if s.eorst then
        exec .eorstHandler
          { s with ie := false, ctx := .devIsr, isrPc := [], eorst := false, sof := false, other := false }
       else .next { s with ie := false, ctx := .devIsr, isrPc := [], eorst := false, sof := false, other := false }) =
        .next afterReset ∧
      (if s.sof then exec .autoTick afterReset else .next afterReset) = .next afterTick ∧
      exec .devIsr s = .next
        (if afterTick.halted then afterTick else { afterTick with ctx := .main, ie := true, isrPc := [] })

/-! ## EP_ISR and the requests (42_control.md) -/

/-- SETUP_INTAKE (R231): eight bytes in order into `req`, RXSTP[0] and RXOUT[0] cleared, the phase at DISPATCH. With
fewer than eight bytes in endpoint 0's OUTBUF (none after a bus reset, those of an OUT that replaced the packet, R175)
the first bytes of `req` are the FIFO's, the others free ones, and the rest is the same (`draws` counts the free values,
log 9). -/
def Obligations.SetupIntake : Prop :=
  ∀ s : State, s.halted = false → s.epSel = 0 →
    (∀ b0 b1 b2 b3 b4 b5 b6 b7 rest, (s.ep 0).outbuf = b0 :: b1 :: b2 :: b3 :: b4 :: b5 :: b6 :: b7 :: rest →
      exec .setupIntake s = .next
        { s.setEp 0 { s.ep 0 with outbuf := rest, rxstp := false, rxout := false } with
          req := { b0, b1, b2, b3, b4, b5, b6, b7 }, ce := { s.ce with phase := .dispatch } }) ∧
    ((s.ep 0).outbuf.length < 8 →
      ∃ req : UsbRequest, exec .setupIntake s = .next
        { s.setEp 0 { s.ep 0 with outbuf := [], rxstp := false, rxout := false } with
          req := req, ce := { s.ce with phase := .dispatch }, draws := s.draws + (8 - (s.ep 0).outbuf.length) } ∧
        req.bytes.take (s.ep 0).outbuf.length = (s.ep 0).outbuf)

/-- DESC_SEARCH (R238): the first entry in table order with that pair, or none; no state but the answer. -/
def Obligations.DescSearch : Prop :=
  ∀ (v x : Half) (s : State), s.halted = false →
    ∃ o, exec (.descSearch v x) s = .next { s with ret := .entry o } ∧
      (∀ i, o = some i →
        (∃ d, s.params.descTable[i]? = some d ∧ d.value = v ∧ d.index = x) ∧
        ∀ j, j < i → ∀ d, s.params.descTable[j]? = some d → ¬(d.value = v ∧ d.index = x)) ∧
      (o = none → ∀ d ∈ s.params.descTable, ¬(d.value = v ∧ d.index = x))

/-- CTRL_FIFO_WRITE up to its end or its first hold (R240): an OUT already received aborts it with no byte written; with no
bank free it holds in CW_WAIT at once; less than a bank is written whole and committed; a bank or more commits the first 32 bytes and holds in CW_WAIT. -/
def Obligations.CtrlFifoWriteStarts : Prop :=
  ∀ (src : List Byte) (len : Byte) (s : State), s.halted = false → s.epSel = 0 → len.toNat ≤ src.length →
    ((s.ep 0).rxout = true →
      exec (.ctrlFifoWrite src len) s = .next
        { s with ce := { s.ce with phase := .cwWait, src := src, pos := 0, rem := len }, ret := .aborted }) ∧
    ((s.ep 0).rxout = false → (s.ep 0).txrdy = false → s.ctx = .epIsr →
      exec (.ctrlFifoWrite src len) s = .next
        { s with ce := { s.ce with phase := .cwWait, src := src, pos := 0, rem := len }, isrPc := .cwWait :: s.isrPc }) ∧
    ((s.ep 0).rxout = false → (s.ep 0).en = true → (s.ep 0).committed.length < bankCount (s.ep 0).banks →
      (s.ep 0).cur.length + len.toNat ≤ (s.ep 0).size → len.toNat < 32 →
      exec (.ctrlFifoWrite src len) s = .next
        { s.setEp 0
            { s.ep 0 with committed := (s.ep 0).committed ++ [(s.ep 0).cur ++ src.take len.toNat], cur := [] } with
          ce := { phase := .cwFill, src := src, pos := len, rem := 0, lastN := len }, ret := .done }) ∧
    ((s.ep 0).rxout = false → (s.ep 0).en = true → (s.ep 0).banks = .one → (s.ep 0).committed = [] →
      (s.ep 0).cur.length + 32 ≤ (s.ep 0).size → 32 ≤ len.toNat → s.params.zlpAfterFull = true → s.ctx = .epIsr →
      exec (.ctrlFifoWrite src len) s = .next
        { s.setEp 0 { s.ep 0 with committed := [(s.ep 0).cur ++ src.take 32], cur := [] } with
          ce := { phase := .cwWait, src := src, pos := 32, rem := len - 32, lastN := 32 },
          isrPc := .cwWait :: s.isrPc })

/-- CTRL_FIFO_WRITE from its hold on, step by step (R240): an OUT received ends it, ABORTED; once the host has taken the
bank, the next one of up to 32 bytes is written and committed, and it is done unless bytes are left or the bank was full
(ZLP_AFTER_FULL), when it holds again. -/
def Obligations.CtrlFifoWriteContinues : Prop :=
  ∀ (s : State) (rest : List Line) (n : Nat), s.halted = false → s.ctx = .epIsr → s.script = [] →
    s.isrPc = .cwWait :: rest → s.epSel = 0 → s.params.zlpAfterFull = true →
    ((s.ep 0).rxout = true → ∃ k, runSteps k s = .next { s with isrPc := rest, ret := .aborted }) ∧
    ((s.ep 0).rxout = false → (s.ep 0).en = true → (s.ep 0).banks = .one → (s.ep 0).committed = [] →
      (s.ep 0).cur = [] → (s.ep 0).size = 32 → n = min s.ce.rem.toNat 32 →
      (n < 32 → ∃ k, runSteps k s = .next
        { s.setEp 0 { s.ep 0 with committed := [(s.ce.src.drop s.ce.pos.toNat).take n] } with
          ce := { phase := .cwFill, src := s.ce.src, pos := s.ce.pos + s.ce.rem, rem := 0, lastN := s.ce.rem },
          isrPc := rest, ret := .done }) ∧
      (n = 32 → ∃ k, runSteps k s = .next
        { s.setEp 0 { s.ep 0 with committed := [(s.ce.src.drop s.ce.pos.toNat).take 32] } with
          ce := { phase := .cwWait, src := s.ce.src, pos := s.ce.pos + 32, rem := s.ce.rem - 32, lastN := 32 },
          isrPc := .cwWait :: rest }))

/-- SET_ADDRESS (R233): the status packet is committed and the engine holds in WAIT_ADDR, without the address, for as
long as the host does not take it; when an IN has taken it, the CPU's next three steps program wValue[6:0] with the enable
bit and end the request. With endpoint 0 disabled by a bus reset the packet is dropped and the engine holds (corner case
d). Where a bank is still free after the commit there is no hold. -/
def Obligations.SetAddress : Prop :=
  ∀ (recipient : BitVec 5) (args : SetupArgs) (s : State), s.halted = false → s.ctx = .epIsr → s.epSel = 0 →
    ((s.ep 0).en = true → (s.ep 0).banks = .one → (s.ep 0).committed = [] →
      ∃ t, exec (.setAddress recipient args) s = .next t ∧
        t = { s.setEp 0 { s.ep 0 with committed := [(s.ep 0).cur], cur := [] } with
              req := .ofFields ((0 : BitVec 3) ++ recipient) 0x05 args, ce := { s.ce with phase := .waitAddr },
              isrPc := [.waitTxrdy, .setDevaddr (args.wValue.extractLsb' 0 7), .setPhase .idle] ++ s.isrPc } ∧
        (s.script = [] → ∀ n, runSteps n t = .next t) ∧
        (s.attached = true → (s.ep 0).stallReq = false → s.script = [] →
          ∃ u, exec (.hIn (if s.adden then s.devAddr else 0) 0) t = .next u ∧
            u.hostRx = s.hostRx ++ [(0, .data (s.ep 0).cur)] ∧ u.devAddr = s.devAddr ∧
            runSteps 3 u = .next
              { u with devAddr := args.wValue.extractLsb' 0 7, adden := true, ce := { s.ce with phase := .idle },
                       isrPc := s.isrPc })) ∧
    ((s.ep 0).en = false →
      exec (.setAddress recipient args) s = .next
        { s with
          req := .ofFields ((0 : BitVec 3) ++ recipient) 0x05 args, ce := { s.ce with phase := .waitAddr },
          isrPc := [.waitTxrdy, .setDevaddr (args.wValue.extractLsb' 0 7), .setPhase .idle] ++ s.isrPc }) ∧
    ((s.ep 0).en = true → (s.ep 0).committed.length + 1 < bankCount (s.ep 0).banks →
      exec (.setAddress recipient args) s = .next
        { s.setEp 0 { s.ep 0 with committed := (s.ep 0).committed ++ [(s.ep 0).cur], cur := [] } with
          req := .ofFields ((0 : BitVec 3) ++ recipient) 0x05 args, ce := { s.ce with phase := .idle },
          devAddr := args.wValue.extractLsb' 0 7, adden := true })

/-- SET_CONFIGURATION (R234): the value recorded, the status packet committed (dropped on a disabled endpoint 0), every enabled entry of EP_TABLE configured
and its endpoint reset, the others untouched, EP_SEL left at the last one configured. -/
def Obligations.SetConfiguration : Prop :=
  ∀ (recipient : BitVec 5) (args : SetupArgs) (s : State), s.halted = false → s.epSel = 0 →
    ((s.ep 0).en = true → (s.ep 0).committed.length < bankCount (s.ep 0).banks) →
    ∃ t, exec (.setConfiguration recipient args) s = .next t ∧
      t = { s with
            req := .ofFields ((0 : BitVec 3) ++ recipient) 0x09 args, ce := { s.ce with phase := .idle },
            usbConfiguration := args.wValue.extractLsb' 0 8, epSel := t.epSel, eps := t.eps } ∧
      t.ep 0 =
        (if (s.ep 0).en then { s.ep 0 with committed := (s.ep 0).committed ++ [(s.ep 0).cur], cur := [] }
         else s.ep 0) ∧
      (∀ (e : EpNum) (c : EndpointConfig), s.params.epConfig e = some c → c.enabled = true →
        t.ep e =
          { en := true, type := c.type, dir := c.direction, banks := c.banks, size := c.size, alloc := c.alloc,
            rxstpe := (s.ep e).rxstpe, rxstp := false, rxout := false, nakin := false, stalled := false,
            stallReq := false, outbuf := [], cur := [], committed := [] } ∧
        e.val ≤ t.epSel.val) ∧
      (∀ (e : EpNum) (c : EndpointConfig), s.params.epConfig e = some c → c.enabled = false → t.ep e = s.ep e) ∧
      (t.epSel = 0 ∨ ∃ c, s.params.epConfig t.epSel = some c ∧ c.enabled = true)

/-- CLEAR_FEATURE (R235): ENDPOINT_HALT of endpoint 1 to 4 empties and resets that endpoint and commits the status packet
(dropped on a disabled endpoint 0); any other feature or endpoint stalls endpoint 0. wIndex above bit 6 is not read. -/
def Obligations.ClearFeature : Prop :=
  ∀ (dir cls : Bool) (args : SetupArgs) (s : State), s.halted = false →
    (∀ e : EpNum, args.wValue = 0 → (args.wIndex.extractLsb' 0 7).toNat = e.val → e ≠ 0 →
      ((s.ep 0).en = true → (s.ep 0).committed.length < bankCount (s.ep 0).banks) →
      exec (.clearFeature dir cls args) s = .next
        { (s.setEp e
            { s.ep e with
              outbuf := [], cur := [], committed := [], rxstp := false, rxout := false, nakin := false,
              stalled := false, stallReq := false }).setEp 0
            (if (s.ep 0).en then { s.ep 0 with committed := (s.ep 0).committed ++ [(s.ep 0).cur], cur := [] }
             else s.ep 0) with
          req := .ofFields (bmOfFields dir (if cls then 1 else 0) 2) 0x01 args, ce := { s.ce with phase := .idle },
          epSel := 0 }) ∧
    (args.wValue ≠ 0 ∨ args.wIndex.extractLsb' 0 7 = 0 ∨ 4 < (args.wIndex.extractLsb' 0 7).toNat → s.epSel = 0 →
      exec (.clearFeature dir cls args) s = .next
        { s.setEp 0 { s.ep 0 with stallReq := true } with
          req := .ofFields (bmOfFields dir (if cls then 1 else 0) 2) 0x01 args, ce := { s.ce with phase := .idle } })

/-- SET_IDLE (R236): the upper byte of wValue is the rate, the count is reset, the status packet committed (dropped on an
endpoint 0 that a bus reset disabled, R153); sof_div is not reset. -/
def Obligations.SetIdle : Prop :=
  ∀ (recipient : BitVec 5) (args : SetupArgs) (s : State), s.halted = false → s.epSel = 0 →
    ((s.ep 0).en = true → (s.ep 0).committed.length < bankCount (s.ep 0).banks) →
    exec (.setIdle recipient args) s = .next
      { s.setEp 0
          (if (s.ep 0).en then { s.ep 0 with committed := (s.ep 0).committed ++ [(s.ep 0).cur], cur := [] }
           else s.ep 0) with
        req := .ofFields ((1 : BitVec 3) ++ recipient) 0x0A args, ce := { s.ce with phase := .idle },
        idleRate := args.wValue.extractLsb' 8 8, idleCounter := 0 }

/-- GET_DESCRIPTOR (R237): an absent pair stalls endpoint 0, emits the line and writes no byte; a pair of the table sends
min(wLength, 255, len) bytes of its data: none when an OUT has already been received; none, with the hold of
CTRL_FIFO_WRITE at once, when there is none and no bank is free (endpoint 0 disabled by a bus reset, 70 R417); in one
bank when that is less than 32; else the first 32 and then the hold. -/
def Obligations.GetDescriptor : Prop :=
  ∀ (recipient : BitVec 5) (args : SetupArgs) (s : State), s.halted = false → s.epSel = 0 →
    ((∀ d ∈ s.params.descTable, ¬(d.value = args.wValue ∧ d.index = args.wIndex)) →
      exec (.getDescriptor recipient args) s = .next
        { s.setEp 0 { s.ep 0 with stallReq := true } with
          req := .ofFields ((4 : BitVec 3) ++ recipient) 0x06 args, ce := { s.ce with phase := .idle },
          diag := s.diag ++ [.noDescriptor] }) ∧
    (∀ (before after : List DescriptorEntry) (d : DescriptorEntry) (n : Nat),
      s.params.descTable = before ++ d :: after → d.value = args.wValue → d.index = args.wIndex →
      (∀ d' ∈ before, ¬(d'.value = args.wValue ∧ d'.index = args.wIndex)) →
      n = min args.wLength.toNat (min 255 d.data.length) →
      ((s.ep 0).rxout = true →
        exec (.getDescriptor recipient args) s = .next
          { s with
            req := .ofFields ((4 : BitVec 3) ++ recipient) 0x06 args,
            ce := { phase := .idle, src := d.data, pos := 0, rem := BitVec.ofNat 8 n, lastN := s.ce.lastN },
            ret := .aborted }) ∧
      ((s.ep 0).rxout = false → (s.ep 0).txrdy = false → s.ctx = .epIsr →
        exec (.getDescriptor recipient args) s = .next
          { s with
            req := .ofFields ((4 : BitVec 3) ++ recipient) 0x06 args,
            ce := { phase := .cwWait, src := d.data, pos := 0, rem := BitVec.ofNat 8 n, lastN := s.ce.lastN },
            isrPc := .cwWait :: .setPhase .idle :: s.isrPc }) ∧
      ((s.ep 0).en = true → (s.ep 0).rxout = false → (s.ep 0).banks = .one → (s.ep 0).committed = [] →
      (s.ep 0).cur = [] → (s.ep 0).size = 32 →
      (n < 32 →
        exec (.getDescriptor recipient args) s = .next
          { s.setEp 0 { s.ep 0 with committed := [d.data.take n] } with
            req := .ofFields ((4 : BitVec 3) ++ recipient) 0x06 args,
            ce := { phase := .idle, src := d.data, pos := BitVec.ofNat 8 n, rem := 0, lastN := BitVec.ofNat 8 n },
            ret := .done }) ∧
      (32 ≤ n → s.params.zlpAfterFull = true → s.ctx = .epIsr →
        exec (.getDescriptor recipient args) s = .next
          { s.setEp 0 { s.ep 0 with committed := [d.data.take 32] } with
            req := .ofFields ((4 : BitVec 3) ++ recipient) 0x06 args,
            ce := { phase := .cwWait, src := d.data, pos := 32, rem := BitVec.ofNat 8 (n - 32), lastN := 32 },
            isrPc := .cwWait :: .setPhase .idle :: s.isrPc })))

/-- GET_REPORT (R239): with the IN bank free the eight bytes of JoypadReport are committed, whatever wLength says; else
the engine holds in WAIT_REPORT with nothing written, the lines left at EP_ISR's position (log 8: the model's choice). -/
def Obligations.GetReport : Prop :=
  ∀ (recipient : BitVec 5) (args : SetupArgs) (s : State), s.halted = false → s.epSel = 0 →
    ((s.ep 0).en = true → (s.ep 0).committed.length < bankCount (s.ep 0).banks →
      (s.ep 0).cur.length + 8 ≤ (s.ep 0).size →
      exec (.getReport recipient args) s = .next
        { s.setEp 0
            { s.ep 0 with
              committed := (s.ep 0).committed ++ [(s.ep 0).cur ++ (List.range 8).map (memRead s.report)], cur := [] } with
          req := .ofFields ((5 : BitVec 3) ++ recipient) 0x01 args, ce := { s.ce with phase := .idle } }) ∧
    ((s.ep 0).txrdy = false → s.ctx = .epIsr →
      exec (.getReport recipient args) s = .next
        { s with
          req := .ofFields ((5 : BitVec 3) ++ recipient) 0x01 args, ce := { s.ce with phase := .waitReport },
          isrPc := .waitTxrdy :: writeReportCode ++ [.commit, .setPhase .idle] ++ s.isrPc })

/-- FATAL (R241): the log line, `I` = 0, the phase HALTED, the halt and the fault record with the eight request bytes,
whose code is 1 (60_exceptions.md R370, R380); endpoint 0 neither stalled nor acknowledged. -/
def Obligations.FatalHalt : Prop :=
  (∀ req : UsbRequest, (FaultRecord.unhandledRequest req).code = 1) ∧
  ∀ (req : UsbRequest) (s : State), s.halted = false →
    exec (.fatalUnhandled req) s = .next
      { s with
        req := req, diag := s.diag ++ [.unhandledRequest req], ie := false, ce := { s.ce with phase := .halted },
        halted := true, fault := s.fault ++ [.unhandledRequest req] }

/-- EP_ISR (R230, R231, R232, R242, R374): entered when it may be, it selects endpoint 0, takes the packet in, runs the
operation the packet spells, and returns to MAIN with `I` = 1; where that operation holds or halts, it stands there with
the lines left (log 8: the model's choice). And where a bus reset cleared RXSTP[0] after the entry, the line that reads
it ends the handler's body, and nothing changes. -/
def Obligations.EpIsrServesRequest : Prop :=
  (∀ s : State, s.canEnter .epIsr = true →
    ∃ (taken served : State) (left : List Line),
      exec .setupIntake { s with ie := false, ctx := .epIsr, isrPc := [], epSel := 0 } = .next taken ∧
      exec (decodeRequest taken.req) taken = .next served ∧ served.isrPc = left ∧
      exec .epIsr s = .next
        (if left = [] ∧ served.halted = false then { served with ctx := .main, ie := true, isrPc := [] } else served)) ∧
  (∀ (s : State) (rest : List Line), s.halted = false → s.script = [] → s.ctx = .epIsr →
    s.isrPc = .setupStatus :: rest → s.epSel = 0 → (s.ep 0).rxstp = false →
    step s = .next { s with isrPc := rest })

/-! ## Interrupts, faults and the machine as a whole (60_exceptions.md) -/

/-- Interrupt entry and return (R371, R374). In MAIN with `I` = 1, a source pending and nothing due, a step is the entry of
a handler that may be entered (`I` = 0, its context, its body; `main_pc` and every port register as they stand), or one
more MAIN step; which, is free (log 9; `draws` is the model's counter of free values). At the end of a handler's body, a
step is the return. -/
def Obligations.InterruptEntryAndReturn : Prop :=
  (∀ s : State, s.script = [] → s.ctx = .main → s.ie = true → s.halted = false →
    (s.devPending = true ∨ s.epPending = true) →
    (∃ h, s.canEnter h = true ∧
      step s = .next { s with draws := s.draws + 1, ie := false, ctx := h, isrPc := handlerCode h }) ∨
    step s = .next (mainStep { s with draws := s.draws + 1 })) ∧
  (∀ s : State, s.script = [] → s.ctx ≠ .main → s.isrPc = [] → s.halted = false →
    step s = .next { s with ctx := .main, ie := true, isrPc := [] })

/-- Which handler may be entered (R371, R373): only the one pending; of two pending, the one ISR_ORDER puts first, and
either under EITHER. -/
def Obligations.IsrOrderDecides : Prop :=
  ∀ s : State, s.ctx = .main → s.ie = true → s.halted = false →
    s.canEnter .main = false ∧
    (s.devPending = false → s.canEnter .devIsr = false ∧ s.canEnter .epIsr = s.epPending) ∧
    (s.epPending = false → s.canEnter .epIsr = false ∧ s.canEnter .devIsr = s.devPending) ∧
    (s.devPending = true → s.epPending = true →
      (s.canEnter .devIsr = true ↔ s.params.isrOrder ≠ .epFirst) ∧
      (s.canEnter .epIsr = true ↔ s.params.isrOrder ≠ .devFirst))

/-- Only interrupt entry and return write the context (10_state.md R31; 60_exceptions.md R371, R374), in every run of
the block: a step that changes it enters a handler that may be entered from MAIN, `I` going to 0 and nothing but the
schedule and the counter of free values changing besides, or returns from a handler at its body's end. -/
def Obligations.ContextChanges : Prop :=
  ∀ s t : State, s.hostScript = true → step s = .next t → t.ctx ≠ s.ctx →
    (s.ctx = .main ∧ s.canEnter t.ctx = true ∧
      t = { s with ie := false, ctx := t.ctx, isrPc := handlerCode t.ctx, draws := s.draws + 1, script := t.script }) ∨
    (s.ctx ≠ .main ∧ s.isrPc = [] ∧ s.halted = false ∧
      t = { s with ctx := .main, ie := true, isrPc := [], script := t.script })

/-- After the halt the CPU has no step (00_scope.md R7(d), 60_exceptions.md R375): no CPU operation changes anything, a
step with nothing due changes nothing, and any step of a run of the block leaves every piece of block state and the
halt. -/
def Obligations.HaltedForGood : Prop :=
  (∀ (i : Instr) (s : State), s.halted = true → i.wf = true → isHostAction i = false → exec i s = .next s) ∧
  (∀ s : State, s.halted = true → s.script = [] → step s = .next s) ∧
  (∀ s t : State, s.halted = true → s.hostScript = true → step s = .next t →
    ∃ (devAddr : DevAddr) (adden : Bool) (eps : Vector Endpoint 5) (frame : Frame) (eorst sof other : Bool)
      (hostRx : List (EpNum × HostOutcome)) (script : List ScriptEntry),
      t = { s with devAddr, adden, eps, frame, eorst, sof, other, hostRx, script })

/-- The CPU's own steps through a handler's body, from its entry, lead to the state the handler as a whole leaves, with no
HOST action between (R371, R374; log 6): the whole operation and the step by step machine agree. Where that state is a
quiescent point (70_reset_and_hazards.md R413; log 30), `cpu RUN` from the entry ends in it. And at a quiescent point the
CPU's own step changes nothing but MAIN's place in its DELAY and the counter of free values (log 9). -/
def Obligations.HandlerStepByStep : Prop :=
  (∀ (s : State) (h : Ctx) (i : Instr), s.script = [] → s.canEnter h = true →
    (h = .devIsr ∧ i = .devIsr ∨ h = .epIsr ∧ i = .epIsr) →
    (∃ n, runSteps n (interruptEntry h s) = exec i s) ∧
    (∀ t, exec i s = .next t → t.quiescent = true → ∃ n, cpuRun n (interruptEntry h s) = some t)) ∧
  (∀ s t : State, s.script = [] → s.quiescent = true → step s = .next t →
    t = { s with mainPc := t.mainPc, draws := t.draws } ∧ (s.ctx ≠ .main ∨ s.halted = true → t = s))

/-- No nesting (R372) is kept by every step of the machine, whatever the schedule holds. -/
def Obligations.NoNestingKept : Prop :=
  ∀ s t : State, s.noNesting → step s = .next t → t.noNesting

/-- One fault record when halted, none before, and `I` = 0 when halted (R380), is kept by every step. -/
def Obligations.HaltRecordedKept : Prop :=
  ∀ s t : State, s.haltRecorded → step s = .next t → t.haltRecorded

/-- The canonical form of the three memories and their bounds (20_memory.md R80) are kept by every step. -/
def Obligations.MemoryWfKept : Prop :=
  ∀ s t : State, s.memoryWf → step s = .next t → t.memoryWf

/-- The read-only tables and the parameters (10_state.md R42, R43) are never written. -/
def Obligations.ParamsReadOnly : Prop :=
  ∀ s t : State, step s = .next t → t.params = s.params

/-- `ce.phase` is IDLE whenever the context is not EP_ISR (10_state.md R37), with the shape of the contexts' programs it
rests on, is kept by every step of a run of the block. -/
def Obligations.PhaseKept : Prop :=
  ∀ s t : State, s.hostScript = true → s.phaseInv → step s = .next t → t.phaseInv ∧ t.hostScript = true

/-- The idle count invariant (43_report.md R291) is kept by every step of a run of the block. With it, a count at or above
a rate that is not 0 stands in a handler only: at AUTO_TICK's compare, where the two are equal, or right before the write
of 0 that the CPU's next step makes. That the boundary between SET_IDLE's two writes is one of these is the model's choice
(log 32: R236 with 00_scope.md R6 makes it, R291 exempts AUTO_TICK only). -/
def Obligations.IdleCountKept : Prop :=
  (∀ s t : State, s.hostScript = true → s.idleInv → step s = .next t → t.idleInv ∧ t.hostScript = true) ∧
  (∀ s : State, s.idleInv → s.idleRate ≠ 0 → s.idleRate.toNat ≤ s.idleCounter.toNat →
    s.ctx ≠ .main ∧ ∃ rest,
      (((s.isrPc = .tickCompare :: rest ∨ s.isrPc = .tickCompareRate s.idleCounter :: rest) ∧
          s.idleCounter = s.idleRate) ∨
        (s.isrPc = .setIdleCounter 0 :: rest ∧ (s.halted = false → (cpuStep s).idleCounter = 0))))

/-- Critical sections (20_memory.md R88, R90): the bracketing of MAIN's position is kept by every step of a run of the
block, and with it a step writes JoypadReport only in MAIN with `I` = 0. -/
def Obligations.CriticalSections : Prop :=
  ∀ s t : State, s.hostScript = true → s.sectionInv → s.noNesting → step s = .next t →
    t.sectionInv ∧ (t.report ≠ s.report → s.ctx = .main ∧ s.ie = false)

/-- The stuck holds (70_reset_and_hazards.md R417): with endpoint 0 disabled, WAIT_ADDR and WAIT_REPORT never end, and
CW_WAIT with RXOUT[0] = 0 neither, whatever the HOST does, and no handler or MAIN line runs. -/
def Obligations.StuckInWait : Prop :=
  ∀ s t : State, s.stuckInWait → step s = .next t →
    t.stuckInWait ∧ t.isrPc = s.isrPc ∧ t.mainPc = s.mainPc ∧ t.ce = s.ce

/-- The enumeration states (10_state.md R51, 41_enumeration.md R205): a bus reset leads to RESET_PENDING, the end-of-reset
handler to ADDRESSED, SET_CONFIGURATION to CONFIGURED or ADDRESSED by its value, boot's attach from DETACHED to
RESET_PENDING; and no other operation as a whole changes the state, but the handlers that contain these and the two
primitives that enable an endpoint. -/
def Obligations.EnumerationTransitions : Prop :=
  (∀ s t : State, s.attached = true → exec .hBusReset s = .next t → t.enumState = .resetPending) ∧
  (∀ s t : State, s.attached = true → s.halted = false → exec .eorstHandler s = .next t → t.enumState = .addressed) ∧
  (∀ (recipient : BitVec 5) (args : SetupArgs) (s t : State), s.attached = true → s.halted = false →
    (s.ep 0).en = true → exec (.setConfiguration recipient args) s = .next t →
    t.enumState = if args.wValue.extractLsb' 0 8 = 0 then .addressed else .configured) ∧
  (∀ (s : State) (rest : List Line), s.ctx = .main → s.ie = false → s.halted = false → s.script = [] →
    s.mainPc = .attach :: rest → (s.ep 0).en = false →
    ∃ t, step s = .next t ∧ t.enumState = .resetPending) ∧
  (∀ (i : Instr) (s t : State),
    (match i with
      | .hBusReset | .eorstHandler | .setConfiguration _ _ | .devIsr | .epIsr | .ep0Init | .epConfigure _ => False
      | _ => True) →
    exec i s = .next t → t.enumState = s.enumState)

/-! ## Reset (10_state.md R53, 70_reset_and_hazards.md R410 to R412) -/

/-- Power-on reset (R53, R410), for every choice of the parameters and of the values R53 leaves unspecified; and BOOT
(R412), each of its writes a step (R6, log 14): the enables of end-of-reset and of start-of-frame, the attachment with `I` = 0
still, then `I` = 1 with MAIN at the start of its loop. The fifth step is the DELAY of a POLL_CYCLE, which lasts or is
over; that DELAY takes a step is the model's choice (log 8), and which of the two is free (log 9; `draws` is the model's
counter of free values). -/
def Obligations.PowerOnAndBoot : Prop :=
  (∀ (p : Params) (u : Unspecified), p.reportInit.length = 8 →
    (State.powerOn p u).ctx = .main ∧ (State.powerOn p u).ie = false ∧ (State.powerOn p u).halted = false ∧
    (State.powerOn p u).mainPc = [.boot] ∧ (State.powerOn p u).usbConfiguration = 0 ∧
    (State.powerOn p u).idleRate = p.idleDefault ∧ (State.powerOn p u).idleCounter = 0 ∧
    (State.powerOn p u).ce.phase = .idle ∧
    memBytes (State.powerOn p u).report 8 = p.reportInit ∧
    (State.powerOn p u).epSel = 0 ∧
    (∀ e, ((State.powerOn p u).ep e).en = false ∧ ((State.powerOn p u).ep e).rxstpe = false ∧
      ((State.powerOn p u).ep e).rxstp = false ∧ ((State.powerOn p u).ep e).rxout = false ∧
      ((State.powerOn p u).ep e).nakin = false ∧ ((State.powerOn p u).ep e).stalled = false ∧
      ((State.powerOn p u).ep e).stallReq = false ∧ ((State.powerOn p u).ep e).outbuf = [] ∧
      ((State.powerOn p u).ep e).cur = [] ∧ ((State.powerOn p u).ep e).committed = []) ∧
    (State.powerOn p u).devAddr = 0 ∧ (State.powerOn p u).adden = false ∧
    (State.powerOn p u).eorst = false ∧ (State.powerOn p u).sof = false ∧ (State.powerOn p u).other = false ∧
    (State.powerOn p u).eorste = false ∧ (State.powerOn p u).sofe = false ∧ (State.powerOn p u).othere = false ∧
    (State.powerOn p u).attached = false ∧ (State.powerOn p u).enumState = .detached ∧
    (State.powerOn p u).hostRx = [] ∧ (State.powerOn p u).diag = [] ∧ (State.powerOn p u).fault = [] ∧
    (State.powerOn p u).ext = []) ∧
  (∀ (p : Params) (u : Unspecified),
    runSteps 1 (State.powerOn p u) = .next
      { State.powerOn p u with eorste := true, mainPc := [.enableSof, .attach, .setI true] } ∧
    runSteps 2 (State.powerOn p u) = .next
      { State.powerOn p u with eorste := true, sofe := true, mainPc := [.attach, .setI true] } ∧
    runSteps 3 (State.powerOn p u) = .next
      { State.powerOn p u with eorste := true, sofe := true, attached := true, mainPc := [.setI true] } ∧
    runSteps 4 (State.powerOn p u) = .next
      { State.powerOn p u with eorste := true, sofe := true, attached := true, ie := true, mainPc := [] } ∧
    (∃ left, (left = [.delay, .sample none, .syncCheck] ∨ left = [.sample none, .syncCheck]) ∧
      runSteps 5 (State.powerOn p u) = .next
        { State.powerOn p u with
          eorste := true, sofe := true, attached := true, ie := true, mainPc := left, draws := 1 }))

/-- A bus reset as a whole (R411, R53): H_BUS_RESET, then DEV_ISR, from MAIN with `I` = 1, leave the values of R53's
second column, and keep the idle state, the report and the other block state. -/
def Obligations.BusResetCompletes : Prop :=
  ∀ s : State, s.attached = true → s.ctx = .main → s.ie = true → s.halted = false → s.eorste = true →
    ∃ t u, exec .hBusReset s = .next t ∧ exec .devIsr t = .next u ∧
      u = { s with
            usbConfiguration := 0, epSel := 0, eps := u.eps, devAddr := 0, adden := false, eorst := false,
            sof := false, other := false, isrPc := [] } ∧
      u.ep 0 =
        { s.ep 0 with
          en := true, type := .control, banks := .one, size := 32, alloc := true, rxstpe := true, rxstp := false,
          rxout := false, nakin := false, stalled := false, stallReq := false, outbuf := [], cur := [],
          committed := [] } ∧
      (∀ e, e ≠ 0 → u.ep e =
        { s.ep e with
          en := false, rxstpe := false, rxstp := false, rxout := false, nakin := false, stalled := false,
          stallReq := false, outbuf := [], cur := [], committed := [] })

/-- The invariants hold after power-on reset, for every choice of the parameters (the memories with a report of at most
eight bytes and unspecified values inside their spaces, the room invariant with valid parameters). -/
def Obligations.ResetInvariants : Prop :=
  (∀ (p : Params) (u : Unspecified), (State.powerOn p u).noNesting ∧ (State.powerOn p u).haltRecorded ∧
    (State.powerOn p u).hostScript = true ∧ (State.powerOn p u).phaseInv ∧ (State.powerOn p u).idleInv ∧
    (State.powerOn p u).sectionInv) ∧
  (∀ (p : Params) (u : Unspecified), p.reportInit.length ≤ 8 → u.raw.length ≤ 32 → u.cstate.length ≤ 8 →
    (State.powerOn p u).memoryWf) ∧
  (∀ (p : Params) (u : Unspecified), p.valid = true → (State.powerOn p u).roomInv) ∧
  State.reset.noNesting ∧ State.reset.haltRecorded ∧ State.reset.memoryWf ∧ State.reset.phaseInv ∧
  State.reset.idleInv ∧ State.reset.sectionInv ∧ State.reset.roomInv ∧ State.reset.hostScript = true

/-- Room in the banks (43_report.md R292, R297(b)): the room invariant is kept by every step of a run of the block, and
with it no step records a PORT_MISUSE, never more than BANKS packets of an endpoint wait, and outside a write sequence
(from the read of its first byte to its commit) CUR of every endpoint, the report endpoint's at each check of WRAL among
them, is empty. -/
def Obligations.RoomKept : Prop :=
  ∀ s t : State, s.hostScript = true → s.noNesting → s.roomInv → step s = .next t →
    t.roomInv ∧
    (t.fault = s.fault ∨ ∃ req, t.fault = s.fault ++ [.unhandledRequest req]) ∧
    (∀ e, (t.ep e).committed.length ≤ bankCount (t.ep e).banks) ∧
    (t.halted = false → (∀ l ∈ t.position.head?, inBank l = false) → ∀ e, (t.ep e).cur = [])
end

