-- ==== Sys2Proof/Laws/Memory.lean ====
section
/-! SUPPORT. The laws of the addressed spaces: read after write, and that every write keeps the canonical form and the
bound on the addresses. -/

namespace Sys2Proof.Machine

/-- A lower bound may be lowered. -/
theorem memWfFrom_le {lo hi : Nat} (h : lo ≤ hi) : ∀ {m : Memory}, memWfFrom hi m = true → memWfFrom lo m = true
  | [], _ => rfl
  | (a, b) :: m, hm => by
    simp only [memWfFrom, Bool.and_eq_true, decide_eq_true_eq] at hm ⊢
    exact ⟨⟨by omega, hm.1.2⟩, hm.2⟩

/-- An address below every cell reads as an unlisted one. -/
theorem memRead_below {lo a : Nat} (h : a < lo) : ∀ {m : Memory}, memWfFrom lo m = true → memRead m a = unlistedByte
  | [], _ => rfl
  | (a', b) :: m, hm => by
    simp only [memWfFrom, Bool.and_eq_true, decide_eq_true_eq] at hm
    have hne : a' ≠ a := by omega
    simp only [memRead, hne, if_false]
    exact memRead_below (lo := a' + 1) (by omega) hm.2

/-- Reading the address just written gives the byte written. -/
theorem memRead_memWrite_same {lo a : Nat} {b : Byte} :
    ∀ {m : Memory}, memWfFrom lo m = true → memRead (memWrite m a b) a = b
  | [], _ => by
    by_cases hb : b = unlistedByte <;> simp [memWrite, memRead, hb]
  | (a', b') :: m, hm => by
    simp only [memWfFrom, Bool.and_eq_true, decide_eq_true_eq] at hm
    simp only [memWrite]
    split
    · rename_i hlt
      split
      · rename_i hb
        have hne : a' ≠ a := by omega
        simp only [memRead, hne, if_false]
        rw [hb]; exact memRead_below (lo := a' + 1) (by omega) hm.2
      · simp [memRead]
    · split
      · rename_i heq
        split
        · rename_i hb
          rw [hb]; exact memRead_below (lo := a' + 1) (by omega) hm.2
        · simp [memRead]
      · rename_i _ hne
        have hne' : a' ≠ a := fun h => hne h.symm
        simp only [memRead, hne', if_false]
        exact memRead_memWrite_same hm.2

/-- A write leaves every other address alone. -/
theorem memRead_memWrite_ne {lo a x : Nat} {b : Byte} (hx : x ≠ a) :
    ∀ {m : Memory}, memWfFrom lo m = true → memRead (memWrite m a b) x = memRead m x
  | [], _ => by
    by_cases hb : b = unlistedByte <;> simp [memWrite, memRead, hb, Ne.symm hx]
  | (a', b') :: m, hm => by
    simp only [memWfFrom, Bool.and_eq_true, decide_eq_true_eq] at hm
    simp only [memWrite]
    split
    · split
      · rfl
      · simp [memRead, Ne.symm hx]
    · split
      · rename_i heq
        subst heq
        split
        · simp [memRead, Ne.symm hx]
        · simp [memRead, Ne.symm hx]
      · simp only [memRead]
        rw [memRead_memWrite_ne hx hm.2]

/-- A write at or above the lower bound keeps the canonical form. -/
theorem memWrite_wfFrom {lo a : Nat} {b : Byte} (ha : lo ≤ a) :
    ∀ {m : Memory}, memWfFrom lo m = true → memWfFrom lo (memWrite m a b) = true
  | [], _ => by
    by_cases hb : b = unlistedByte <;> simp [memWrite, memWfFrom, hb, ha]
  | (a', b') :: m, hm => by
    simp only [memWfFrom, Bool.and_eq_true, decide_eq_true_eq] at hm
    obtain ⟨⟨hlo, hb'⟩, hm⟩ := hm
    simp only [memWrite]
    split
    · rename_i hlt
      split
      · simp [memWfFrom, hlo, hb', hm]
      · rename_i hb
        simp only [memWfFrom, Bool.and_eq_true, decide_eq_true_eq]
        exact ⟨⟨ha, by simpa using hb⟩, ⟨by omega, hb'⟩, hm⟩
    · split
      · rename_i heq
        subst heq
        split
        · exact memWfFrom_le (by omega) hm
        · rename_i hb
          simp only [memWfFrom, Bool.and_eq_true, decide_eq_true_eq]
          exact ⟨⟨ha, by simpa using hb⟩, hm⟩
      · rename_i hlt hne
        simp only [memWfFrom, Bool.and_eq_true, decide_eq_true_eq]
        exact ⟨⟨hlo, hb'⟩, memWrite_wfFrom (by omega) hm⟩

/-- Every write keeps the canonical form. -/
theorem memWrite_wf {m : Memory} (a : Nat) (b : Byte) (h : m.wf = true) : Memory.wf (memWrite m a b) = true :=
  memWrite_wfFrom (Nat.zero_le a) h

/-- Writing a list keeps the canonical form. -/
theorem memWriteList_wf : ∀ (bs : List Byte) (a : Nat) {m : Memory}, m.wf = true → Memory.wf (memWriteList m a bs) = true
  | [], _, _, h => h
  | b :: bs, a, _, h => memWriteList_wf bs (a + 1) (memWrite_wf a b h)

/-- A space made of given bytes has the canonical form. -/
theorem memOfBytes_wf (bs : List Byte) : Memory.wf (memOfBytes bs) = true := memWriteList_wf bs 0 rfl

/-- A write below a bound keeps every cell below it. -/
theorem memWrite_below {n a : Nat} {b : Byte} (ha : a < n) :
    ∀ {m : Memory}, (∀ c ∈ m, c.1 < n) → ∀ c ∈ memWrite m a b, c.1 < n
  | [], _, c, hc => by
    by_cases hb : b = unlistedByte
    · simp [memWrite, hb] at hc
    · simp only [memWrite, hb, if_false, List.mem_singleton] at hc
      subst hc; exact ha
  | (a', b') :: m, hm, c, hc => by
    have hhead := hm (a', b') (List.mem_cons_self ..)
    have htail : ∀ c ∈ m, c.1 < n := fun c h => hm c (List.mem_cons_of_mem _ h)
    simp only [memWrite] at hc
    split at hc
    · split at hc
      · exact hm c hc
      · rcases List.mem_cons.mp hc with rfl | h
        · exact ha
        · exact hm c h
    · split at hc
      · split at hc
        · exact htail c hc
        · rcases List.mem_cons.mp hc with rfl | h
          · exact ha
          · exact htail c h
      · rcases List.mem_cons.mp hc with rfl | h
        · exact hhead
        · exact memWrite_below ha htail c h

/-- Writing a list below a bound keeps every cell below it. -/
theorem memWriteList_below {n : Nat} :
    ∀ (bs : List Byte) (a : Nat) {m : Memory}, a + bs.length ≤ n → (∀ c ∈ m, c.1 < n) →
      ∀ c ∈ memWriteList m a bs, c.1 < n
  | [], _, _, _, h => h
  | b :: bs, a, _, hl, h => by
    simp only [List.length_cons] at hl
    exact memWriteList_below bs (a + 1) (by omega) (memWrite_below (by omega) h)

/-- Reading after a list is written: the list's byte inside it, the old one outside. -/
theorem memRead_memWriteList :
    ∀ (bs : List Byte) (a x : Nat) {m : Memory}, m.wf = true →
      memRead (memWriteList m a bs) x = if a ≤ x ∧ x < a + bs.length then bs.getD (x - a) 0 else memRead m x
  | [], a, x, m, _ => by
    have h : ¬(a ≤ x ∧ x < a + ([] : List Byte).length) := by simp only [List.length_nil]; omega
    simp only [memWriteList, h, if_false]
  | b :: bs, a, x, m, hm => by
    rw [memWriteList, memRead_memWriteList bs (a + 1) x (memWrite_wf a b hm)]
    rcases Nat.lt_trichotomy x a with hx | hx | hx
    · have h1 : ¬(a + 1 ≤ x ∧ x < a + 1 + bs.length) := by omega
      have h2 : ¬(a ≤ x ∧ x < a + (b :: bs).length) := by omega
      rw [if_neg h1, if_neg h2, memRead_memWrite_ne (by omega) hm]
    · subst hx
      have h1 : ¬(x + 1 ≤ x ∧ x < x + 1 + bs.length) := by omega
      have h2 : x ≤ x ∧ x < x + (b :: bs).length := by simp only [List.length_cons]; omega
      rw [if_neg h1, if_pos h2, memRead_memWrite_same hm, Nat.sub_self, List.getD_cons_zero]
    · by_cases h : x < a + 1 + bs.length
      · have h2 : a ≤ x ∧ x < a + (b :: bs).length := by simp only [List.length_cons]; omega
        have h3 : x - a = (x - (a + 1)) + 1 := by omega
        rw [if_pos ⟨by omega, h⟩, if_pos h2, h3, List.getD_cons_succ]
      · have h1 : ¬(a + 1 ≤ x ∧ x < a + 1 + bs.length) := by omega
        have h2 : ¬(a ≤ x ∧ x < a + (b :: bs).length) := by simp only [List.length_cons]; omega
        rw [if_neg h1, if_neg h2, memRead_memWrite_ne (by omega) hm]

/-- Reading a space made of given bytes. -/
theorem memRead_memOfBytes (bs : List Byte) (x : Nat) : memRead (memOfBytes bs) x = bs.getD x 0 := by
  rw [memOfBytes, memRead_memWriteList bs 0 x rfl]
  by_cases h : x < bs.length
  · simp [h]
  · simp [h, memRead, unlistedByte]

/-- A space made of at most `n` bytes stays below `n`. -/
theorem memOfBytes_below {n : Nat} {bs : List Byte} (h : bs.length ≤ n) : ∀ c ∈ memOfBytes bs, c.1 < n :=
  memWriteList_below bs 0 (by omega) (fun _ h => absurd h List.not_mem_nil)

end Sys2Proof.Machine
end

