-- ==== Sys2Proof/Laws/State.lean ====
section
/-! SUPPORT. One lemma per field per update of the state: reading an endpoint after an endpoint is written, every other
field after an endpoint is written, and the fields after a fault, an entry and a return. -/

namespace Sys2Proof.Machine

/-- Endpoint `f` after endpoint `e` is written. -/
@[simp] theorem State.ep_setEp (s : State) (e f : EpNum) (x : Endpoint) :
    (s.setEp e x).ep f = if f = e then x else s.ep f := by
  simp only [State.ep, State.setEp, Fin.getElem_fin, Vector.getElem_set, Fin.ext_iff, eq_comm]

/-- Endpoint `f` after endpoint `e` is changed. -/
@[simp] theorem State.ep_modEp (s : State) (e f : EpNum) (g : Endpoint → Endpoint) :
    (s.modEp e g).ep f = if f = e then g (s.ep e) else s.ep f := by
  simp only [State.modEp, State.ep_setEp]

/-- Two changes of one endpoint are one. -/
@[simp] theorem State.modEp_modEp (s : State) (e : EpNum) (f g : Endpoint → Endpoint) :
    (s.modEp e f).modEp e g = s.modEp e (fun x => g (f x)) := by
  simp [State.modEp, State.setEp, State.ep]

/-- Writing an endpoint with what it holds changes nothing. -/
theorem State.modEp_id (s : State) (e : EpNum) (f : Endpoint → Endpoint) (h : f (s.ep e) = s.ep e) :
    s.modEp e f = s := by
  have hset : s.eps.set e.val s.eps[e.val] = s.eps := Vector.set_getElem_self _
  simp only [State.modEp, State.setEp, State.ep, Fin.getElem_fin] at h ⊢
  rw [h, hset]

@[simp] theorem State.setEp_params (s : State) (e : EpNum) (x : Endpoint) : (s.setEp e x).params = s.params := rfl
@[simp] theorem State.setEp_ctx (s : State) (e : EpNum) (x : Endpoint) : (s.setEp e x).ctx = s.ctx := rfl
@[simp] theorem State.setEp_ie (s : State) (e : EpNum) (x : Endpoint) : (s.setEp e x).ie = s.ie := rfl
@[simp] theorem State.setEp_halted (s : State) (e : EpNum) (x : Endpoint) : (s.setEp e x).halted = s.halted := rfl
@[simp] theorem State.setEp_isrPc (s : State) (e : EpNum) (x : Endpoint) : (s.setEp e x).isrPc = s.isrPc := rfl
@[simp] theorem State.setEp_mainPc (s : State) (e : EpNum) (x : Endpoint) : (s.setEp e x).mainPc = s.mainPc := rfl
@[simp] theorem State.setEp_usbConfiguration (s : State) (e : EpNum) (x : Endpoint) : (s.setEp e x).usbConfiguration = s.usbConfiguration := rfl
@[simp] theorem State.setEp_idleRate (s : State) (e : EpNum) (x : Endpoint) : (s.setEp e x).idleRate = s.idleRate := rfl
@[simp] theorem State.setEp_idleCounter (s : State) (e : EpNum) (x : Endpoint) : (s.setEp e x).idleCounter = s.idleCounter := rfl
@[simp] theorem State.setEp_sofDiv (s : State) (e : EpNum) (x : Endpoint) : (s.setEp e x).sofDiv = s.sofDiv := rfl
@[simp] theorem State.setEp_req (s : State) (e : EpNum) (x : Endpoint) : (s.setEp e x).req = s.req := rfl
@[simp] theorem State.setEp_ce (s : State) (e : EpNum) (x : Endpoint) : (s.setEp e x).ce = s.ce := rfl
@[simp] theorem State.setEp_sendL (s : State) (e : EpNum) (x : Endpoint) : (s.setEp e x).sendL = s.sendL := rfl
@[simp] theorem State.setEp_report (s : State) (e : EpNum) (x : Endpoint) : (s.setEp e x).report = s.report := rfl
@[simp] theorem State.setEp_raw (s : State) (e : EpNum) (x : Endpoint) : (s.setEp e x).raw = s.raw := rfl
@[simp] theorem State.setEp_cstate (s : State) (e : EpNum) (x : Endpoint) : (s.setEp e x).cstate = s.cstate := rfl
@[simp] theorem State.setEp_epSel (s : State) (e : EpNum) (x : Endpoint) : (s.setEp e x).epSel = s.epSel := rfl
@[simp] theorem State.setEp_devAddr (s : State) (e : EpNum) (x : Endpoint) : (s.setEp e x).devAddr = s.devAddr := rfl
@[simp] theorem State.setEp_adden (s : State) (e : EpNum) (x : Endpoint) : (s.setEp e x).adden = s.adden := rfl
@[simp] theorem State.setEp_frame (s : State) (e : EpNum) (x : Endpoint) : (s.setEp e x).frame = s.frame := rfl
@[simp] theorem State.setEp_eorst (s : State) (e : EpNum) (x : Endpoint) : (s.setEp e x).eorst = s.eorst := rfl
@[simp] theorem State.setEp_sof (s : State) (e : EpNum) (x : Endpoint) : (s.setEp e x).sof = s.sof := rfl
@[simp] theorem State.setEp_other (s : State) (e : EpNum) (x : Endpoint) : (s.setEp e x).other = s.other := rfl
@[simp] theorem State.setEp_eorste (s : State) (e : EpNum) (x : Endpoint) : (s.setEp e x).eorste = s.eorste := rfl
@[simp] theorem State.setEp_sofe (s : State) (e : EpNum) (x : Endpoint) : (s.setEp e x).sofe = s.sofe := rfl
@[simp] theorem State.setEp_othere (s : State) (e : EpNum) (x : Endpoint) : (s.setEp e x).othere = s.othere := rfl
@[simp] theorem State.setEp_attached (s : State) (e : EpNum) (x : Endpoint) : (s.setEp e x).attached = s.attached := rfl
@[simp] theorem State.setEp_hostRx (s : State) (e : EpNum) (x : Endpoint) : (s.setEp e x).hostRx = s.hostRx := rfl
@[simp] theorem State.setEp_diag (s : State) (e : EpNum) (x : Endpoint) : (s.setEp e x).diag = s.diag := rfl
@[simp] theorem State.setEp_fault (s : State) (e : EpNum) (x : Endpoint) : (s.setEp e x).fault = s.fault := rfl
@[simp] theorem State.setEp_ext (s : State) (e : EpNum) (x : Endpoint) : (s.setEp e x).ext = s.ext := rfl
@[simp] theorem State.setEp_script (s : State) (e : EpNum) (x : Endpoint) : (s.setEp e x).script = s.script := rfl
@[simp] theorem State.setEp_draws (s : State) (e : EpNum) (x : Endpoint) : (s.setEp e x).draws = s.draws := rfl
@[simp] theorem State.setEp_ret (s : State) (e : EpNum) (x : Endpoint) : (s.setEp e x).ret = s.ret := rfl
@[simp] theorem State.modEp_params (s : State) (e : EpNum) (g : Endpoint → Endpoint) : (s.modEp e g).params = s.params := rfl
@[simp] theorem State.modEp_ctx (s : State) (e : EpNum) (g : Endpoint → Endpoint) : (s.modEp e g).ctx = s.ctx := rfl
@[simp] theorem State.modEp_ie (s : State) (e : EpNum) (g : Endpoint → Endpoint) : (s.modEp e g).ie = s.ie := rfl
@[simp] theorem State.modEp_halted (s : State) (e : EpNum) (g : Endpoint → Endpoint) : (s.modEp e g).halted = s.halted := rfl
@[simp] theorem State.modEp_isrPc (s : State) (e : EpNum) (g : Endpoint → Endpoint) : (s.modEp e g).isrPc = s.isrPc := rfl
@[simp] theorem State.modEp_mainPc (s : State) (e : EpNum) (g : Endpoint → Endpoint) : (s.modEp e g).mainPc = s.mainPc := rfl
@[simp] theorem State.modEp_usbConfiguration (s : State) (e : EpNum) (g : Endpoint → Endpoint) : (s.modEp e g).usbConfiguration = s.usbConfiguration := rfl
@[simp] theorem State.modEp_idleRate (s : State) (e : EpNum) (g : Endpoint → Endpoint) : (s.modEp e g).idleRate = s.idleRate := rfl
@[simp] theorem State.modEp_idleCounter (s : State) (e : EpNum) (g : Endpoint → Endpoint) : (s.modEp e g).idleCounter = s.idleCounter := rfl
@[simp] theorem State.modEp_sofDiv (s : State) (e : EpNum) (g : Endpoint → Endpoint) : (s.modEp e g).sofDiv = s.sofDiv := rfl
@[simp] theorem State.modEp_req (s : State) (e : EpNum) (g : Endpoint → Endpoint) : (s.modEp e g).req = s.req := rfl
@[simp] theorem State.modEp_ce (s : State) (e : EpNum) (g : Endpoint → Endpoint) : (s.modEp e g).ce = s.ce := rfl
@[simp] theorem State.modEp_sendL (s : State) (e : EpNum) (g : Endpoint → Endpoint) : (s.modEp e g).sendL = s.sendL := rfl
@[simp] theorem State.modEp_report (s : State) (e : EpNum) (g : Endpoint → Endpoint) : (s.modEp e g).report = s.report := rfl
@[simp] theorem State.modEp_raw (s : State) (e : EpNum) (g : Endpoint → Endpoint) : (s.modEp e g).raw = s.raw := rfl
@[simp] theorem State.modEp_cstate (s : State) (e : EpNum) (g : Endpoint → Endpoint) : (s.modEp e g).cstate = s.cstate := rfl
@[simp] theorem State.modEp_epSel (s : State) (e : EpNum) (g : Endpoint → Endpoint) : (s.modEp e g).epSel = s.epSel := rfl
@[simp] theorem State.modEp_devAddr (s : State) (e : EpNum) (g : Endpoint → Endpoint) : (s.modEp e g).devAddr = s.devAddr := rfl
@[simp] theorem State.modEp_adden (s : State) (e : EpNum) (g : Endpoint → Endpoint) : (s.modEp e g).adden = s.adden := rfl
@[simp] theorem State.modEp_frame (s : State) (e : EpNum) (g : Endpoint → Endpoint) : (s.modEp e g).frame = s.frame := rfl
@[simp] theorem State.modEp_eorst (s : State) (e : EpNum) (g : Endpoint → Endpoint) : (s.modEp e g).eorst = s.eorst := rfl
@[simp] theorem State.modEp_sof (s : State) (e : EpNum) (g : Endpoint → Endpoint) : (s.modEp e g).sof = s.sof := rfl
@[simp] theorem State.modEp_other (s : State) (e : EpNum) (g : Endpoint → Endpoint) : (s.modEp e g).other = s.other := rfl
@[simp] theorem State.modEp_eorste (s : State) (e : EpNum) (g : Endpoint → Endpoint) : (s.modEp e g).eorste = s.eorste := rfl
@[simp] theorem State.modEp_sofe (s : State) (e : EpNum) (g : Endpoint → Endpoint) : (s.modEp e g).sofe = s.sofe := rfl
@[simp] theorem State.modEp_othere (s : State) (e : EpNum) (g : Endpoint → Endpoint) : (s.modEp e g).othere = s.othere := rfl
@[simp] theorem State.modEp_attached (s : State) (e : EpNum) (g : Endpoint → Endpoint) : (s.modEp e g).attached = s.attached := rfl
@[simp] theorem State.modEp_hostRx (s : State) (e : EpNum) (g : Endpoint → Endpoint) : (s.modEp e g).hostRx = s.hostRx := rfl
@[simp] theorem State.modEp_diag (s : State) (e : EpNum) (g : Endpoint → Endpoint) : (s.modEp e g).diag = s.diag := rfl
@[simp] theorem State.modEp_fault (s : State) (e : EpNum) (g : Endpoint → Endpoint) : (s.modEp e g).fault = s.fault := rfl
@[simp] theorem State.modEp_ext (s : State) (e : EpNum) (g : Endpoint → Endpoint) : (s.modEp e g).ext = s.ext := rfl
@[simp] theorem State.modEp_script (s : State) (e : EpNum) (g : Endpoint → Endpoint) : (s.modEp e g).script = s.script := rfl
@[simp] theorem State.modEp_draws (s : State) (e : EpNum) (g : Endpoint → Endpoint) : (s.modEp e g).draws = s.draws := rfl
@[simp] theorem State.modEp_ret (s : State) (e : EpNum) (g : Endpoint → Endpoint) : (s.modEp e g).ret = s.ret := rfl
@[simp] theorem raiseFault_params (r : FaultRecord) (s : State) : (raiseFault r s).params = s.params := rfl
@[simp] theorem raiseFault_ctx (r : FaultRecord) (s : State) : (raiseFault r s).ctx = s.ctx := rfl
@[simp] theorem raiseFault_ie (r : FaultRecord) (s : State) : (raiseFault r s).ie = false := rfl
@[simp] theorem raiseFault_halted (r : FaultRecord) (s : State) : (raiseFault r s).halted = true := rfl
@[simp] theorem raiseFault_isrPc (r : FaultRecord) (s : State) : (raiseFault r s).isrPc = s.isrPc := rfl
@[simp] theorem raiseFault_mainPc (r : FaultRecord) (s : State) : (raiseFault r s).mainPc = s.mainPc := rfl
@[simp] theorem raiseFault_usbConfiguration (r : FaultRecord) (s : State) : (raiseFault r s).usbConfiguration = s.usbConfiguration := rfl
@[simp] theorem raiseFault_idleRate (r : FaultRecord) (s : State) : (raiseFault r s).idleRate = s.idleRate := rfl
@[simp] theorem raiseFault_idleCounter (r : FaultRecord) (s : State) : (raiseFault r s).idleCounter = s.idleCounter := rfl
@[simp] theorem raiseFault_sofDiv (r : FaultRecord) (s : State) : (raiseFault r s).sofDiv = s.sofDiv := rfl
@[simp] theorem raiseFault_req (r : FaultRecord) (s : State) : (raiseFault r s).req = s.req := rfl
@[simp] theorem raiseFault_ce (r : FaultRecord) (s : State) : (raiseFault r s).ce = s.ce := rfl
@[simp] theorem raiseFault_sendL (r : FaultRecord) (s : State) : (raiseFault r s).sendL = s.sendL := rfl
@[simp] theorem raiseFault_report (r : FaultRecord) (s : State) : (raiseFault r s).report = s.report := rfl
@[simp] theorem raiseFault_raw (r : FaultRecord) (s : State) : (raiseFault r s).raw = s.raw := rfl
@[simp] theorem raiseFault_cstate (r : FaultRecord) (s : State) : (raiseFault r s).cstate = s.cstate := rfl
@[simp] theorem raiseFault_epSel (r : FaultRecord) (s : State) : (raiseFault r s).epSel = s.epSel := rfl
@[simp] theorem raiseFault_devAddr (r : FaultRecord) (s : State) : (raiseFault r s).devAddr = s.devAddr := rfl
@[simp] theorem raiseFault_adden (r : FaultRecord) (s : State) : (raiseFault r s).adden = s.adden := rfl
@[simp] theorem raiseFault_frame (r : FaultRecord) (s : State) : (raiseFault r s).frame = s.frame := rfl
@[simp] theorem raiseFault_eorst (r : FaultRecord) (s : State) : (raiseFault r s).eorst = s.eorst := rfl
@[simp] theorem raiseFault_sof (r : FaultRecord) (s : State) : (raiseFault r s).sof = s.sof := rfl
@[simp] theorem raiseFault_other (r : FaultRecord) (s : State) : (raiseFault r s).other = s.other := rfl
@[simp] theorem raiseFault_eorste (r : FaultRecord) (s : State) : (raiseFault r s).eorste = s.eorste := rfl
@[simp] theorem raiseFault_sofe (r : FaultRecord) (s : State) : (raiseFault r s).sofe = s.sofe := rfl
@[simp] theorem raiseFault_othere (r : FaultRecord) (s : State) : (raiseFault r s).othere = s.othere := rfl
@[simp] theorem raiseFault_attached (r : FaultRecord) (s : State) : (raiseFault r s).attached = s.attached := rfl
@[simp] theorem raiseFault_hostRx (r : FaultRecord) (s : State) : (raiseFault r s).hostRx = s.hostRx := rfl
@[simp] theorem raiseFault_diag (r : FaultRecord) (s : State) : (raiseFault r s).diag = s.diag := rfl
@[simp] theorem raiseFault_fault (r : FaultRecord) (s : State) : (raiseFault r s).fault = s.fault ++ [r] := rfl
@[simp] theorem raiseFault_ext (r : FaultRecord) (s : State) : (raiseFault r s).ext = s.ext := rfl
@[simp] theorem raiseFault_script (r : FaultRecord) (s : State) : (raiseFault r s).script = s.script := rfl
@[simp] theorem raiseFault_draws (r : FaultRecord) (s : State) : (raiseFault r s).draws = s.draws := rfl
@[simp] theorem raiseFault_ret (r : FaultRecord) (s : State) : (raiseFault r s).ret = s.ret := rfl
@[simp] theorem raiseFault_eps (r : FaultRecord) (s : State) : (raiseFault r s).eps = s.eps := rfl
@[simp] theorem raiseFault_ep (r : FaultRecord) (s : State) (f : EpNum) : (raiseFault r s).ep f = s.ep f := rfl
@[simp] theorem interruptEntry_params (h : Ctx) (s : State) : (interruptEntry h s).params = s.params := rfl
@[simp] theorem interruptEntry_ctx (h : Ctx) (s : State) : (interruptEntry h s).ctx = h := rfl
@[simp] theorem interruptEntry_ie (h : Ctx) (s : State) : (interruptEntry h s).ie = false := rfl
@[simp] theorem interruptEntry_halted (h : Ctx) (s : State) : (interruptEntry h s).halted = s.halted := rfl
@[simp] theorem interruptEntry_isrPc (h : Ctx) (s : State) : (interruptEntry h s).isrPc = handlerCode h := rfl
@[simp] theorem interruptEntry_mainPc (h : Ctx) (s : State) : (interruptEntry h s).mainPc = s.mainPc := rfl
@[simp] theorem interruptEntry_usbConfiguration (h : Ctx) (s : State) : (interruptEntry h s).usbConfiguration = s.usbConfiguration := rfl
@[simp] theorem interruptEntry_idleRate (h : Ctx) (s : State) : (interruptEntry h s).idleRate = s.idleRate := rfl
@[simp] theorem interruptEntry_idleCounter (h : Ctx) (s : State) : (interruptEntry h s).idleCounter = s.idleCounter := rfl
@[simp] theorem interruptEntry_sofDiv (h : Ctx) (s : State) : (interruptEntry h s).sofDiv = s.sofDiv := rfl
@[simp] theorem interruptEntry_req (h : Ctx) (s : State) : (interruptEntry h s).req = s.req := rfl
@[simp] theorem interruptEntry_ce (h : Ctx) (s : State) : (interruptEntry h s).ce = s.ce := rfl
@[simp] theorem interruptEntry_sendL (h : Ctx) (s : State) : (interruptEntry h s).sendL = s.sendL := rfl
@[simp] theorem interruptEntry_report (h : Ctx) (s : State) : (interruptEntry h s).report = s.report := rfl
@[simp] theorem interruptEntry_raw (h : Ctx) (s : State) : (interruptEntry h s).raw = s.raw := rfl
@[simp] theorem interruptEntry_cstate (h : Ctx) (s : State) : (interruptEntry h s).cstate = s.cstate := rfl
@[simp] theorem interruptEntry_epSel (h : Ctx) (s : State) : (interruptEntry h s).epSel = s.epSel := rfl
@[simp] theorem interruptEntry_devAddr (h : Ctx) (s : State) : (interruptEntry h s).devAddr = s.devAddr := rfl
@[simp] theorem interruptEntry_adden (h : Ctx) (s : State) : (interruptEntry h s).adden = s.adden := rfl
@[simp] theorem interruptEntry_frame (h : Ctx) (s : State) : (interruptEntry h s).frame = s.frame := rfl
@[simp] theorem interruptEntry_eorst (h : Ctx) (s : State) : (interruptEntry h s).eorst = s.eorst := rfl
@[simp] theorem interruptEntry_sof (h : Ctx) (s : State) : (interruptEntry h s).sof = s.sof := rfl
@[simp] theorem interruptEntry_other (h : Ctx) (s : State) : (interruptEntry h s).other = s.other := rfl
@[simp] theorem interruptEntry_eorste (h : Ctx) (s : State) : (interruptEntry h s).eorste = s.eorste := rfl
@[simp] theorem interruptEntry_sofe (h : Ctx) (s : State) : (interruptEntry h s).sofe = s.sofe := rfl
@[simp] theorem interruptEntry_othere (h : Ctx) (s : State) : (interruptEntry h s).othere = s.othere := rfl
@[simp] theorem interruptEntry_attached (h : Ctx) (s : State) : (interruptEntry h s).attached = s.attached := rfl
@[simp] theorem interruptEntry_hostRx (h : Ctx) (s : State) : (interruptEntry h s).hostRx = s.hostRx := rfl
@[simp] theorem interruptEntry_diag (h : Ctx) (s : State) : (interruptEntry h s).diag = s.diag := rfl
@[simp] theorem interruptEntry_fault (h : Ctx) (s : State) : (interruptEntry h s).fault = s.fault := rfl
@[simp] theorem interruptEntry_ext (h : Ctx) (s : State) : (interruptEntry h s).ext = s.ext := rfl
@[simp] theorem interruptEntry_script (h : Ctx) (s : State) : (interruptEntry h s).script = s.script := rfl
@[simp] theorem interruptEntry_draws (h : Ctx) (s : State) : (interruptEntry h s).draws = s.draws := rfl
@[simp] theorem interruptEntry_ret (h : Ctx) (s : State) : (interruptEntry h s).ret = s.ret := rfl
@[simp] theorem interruptEntry_eps (h : Ctx) (s : State) : (interruptEntry h s).eps = s.eps := rfl
@[simp] theorem interruptEntry_ep (h : Ctx) (s : State) (f : EpNum) : (interruptEntry h s).ep f = s.ep f := rfl
@[simp] theorem returnFromInterrupt_params (s : State) : (returnFromInterrupt s).params = s.params := rfl
@[simp] theorem returnFromInterrupt_ctx (s : State) : (returnFromInterrupt s).ctx = .main := rfl
@[simp] theorem returnFromInterrupt_ie (s : State) : (returnFromInterrupt s).ie = true := rfl
@[simp] theorem returnFromInterrupt_halted (s : State) : (returnFromInterrupt s).halted = s.halted := rfl
@[simp] theorem returnFromInterrupt_isrPc (s : State) : (returnFromInterrupt s).isrPc = [] := rfl
@[simp] theorem returnFromInterrupt_mainPc (s : State) : (returnFromInterrupt s).mainPc = s.mainPc := rfl
@[simp] theorem returnFromInterrupt_usbConfiguration (s : State) : (returnFromInterrupt s).usbConfiguration = s.usbConfiguration := rfl
@[simp] theorem returnFromInterrupt_idleRate (s : State) : (returnFromInterrupt s).idleRate = s.idleRate := rfl
@[simp] theorem returnFromInterrupt_idleCounter (s : State) : (returnFromInterrupt s).idleCounter = s.idleCounter := rfl
@[simp] theorem returnFromInterrupt_sofDiv (s : State) : (returnFromInterrupt s).sofDiv = s.sofDiv := rfl
@[simp] theorem returnFromInterrupt_req (s : State) : (returnFromInterrupt s).req = s.req := rfl
@[simp] theorem returnFromInterrupt_ce (s : State) : (returnFromInterrupt s).ce = s.ce := rfl
@[simp] theorem returnFromInterrupt_sendL (s : State) : (returnFromInterrupt s).sendL = s.sendL := rfl
@[simp] theorem returnFromInterrupt_report (s : State) : (returnFromInterrupt s).report = s.report := rfl
@[simp] theorem returnFromInterrupt_raw (s : State) : (returnFromInterrupt s).raw = s.raw := rfl
@[simp] theorem returnFromInterrupt_cstate (s : State) : (returnFromInterrupt s).cstate = s.cstate := rfl
@[simp] theorem returnFromInterrupt_epSel (s : State) : (returnFromInterrupt s).epSel = s.epSel := rfl
@[simp] theorem returnFromInterrupt_devAddr (s : State) : (returnFromInterrupt s).devAddr = s.devAddr := rfl
@[simp] theorem returnFromInterrupt_adden (s : State) : (returnFromInterrupt s).adden = s.adden := rfl
@[simp] theorem returnFromInterrupt_frame (s : State) : (returnFromInterrupt s).frame = s.frame := rfl
@[simp] theorem returnFromInterrupt_eorst (s : State) : (returnFromInterrupt s).eorst = s.eorst := rfl
@[simp] theorem returnFromInterrupt_sof (s : State) : (returnFromInterrupt s).sof = s.sof := rfl
@[simp] theorem returnFromInterrupt_other (s : State) : (returnFromInterrupt s).other = s.other := rfl
@[simp] theorem returnFromInterrupt_eorste (s : State) : (returnFromInterrupt s).eorste = s.eorste := rfl
@[simp] theorem returnFromInterrupt_sofe (s : State) : (returnFromInterrupt s).sofe = s.sofe := rfl
@[simp] theorem returnFromInterrupt_othere (s : State) : (returnFromInterrupt s).othere = s.othere := rfl
@[simp] theorem returnFromInterrupt_attached (s : State) : (returnFromInterrupt s).attached = s.attached := rfl
@[simp] theorem returnFromInterrupt_hostRx (s : State) : (returnFromInterrupt s).hostRx = s.hostRx := rfl
@[simp] theorem returnFromInterrupt_diag (s : State) : (returnFromInterrupt s).diag = s.diag := rfl
@[simp] theorem returnFromInterrupt_fault (s : State) : (returnFromInterrupt s).fault = s.fault := rfl
@[simp] theorem returnFromInterrupt_ext (s : State) : (returnFromInterrupt s).ext = s.ext := rfl
@[simp] theorem returnFromInterrupt_script (s : State) : (returnFromInterrupt s).script = s.script := rfl
@[simp] theorem returnFromInterrupt_draws (s : State) : (returnFromInterrupt s).draws = s.draws := rfl
@[simp] theorem returnFromInterrupt_ret (s : State) : (returnFromInterrupt s).ret = s.ret := rfl
@[simp] theorem returnFromInterrupt_eps (s : State) : (returnFromInterrupt s).eps = s.eps := rfl
@[simp] theorem returnFromInterrupt_ep (s : State) (f : EpNum) : (returnFromInterrupt s).ep f = s.ep f := rfl
@[simp] theorem setPhase_params (p : Phase) (s : State) : (setPhase p s).params = s.params := rfl
@[simp] theorem setPhase_ctx (p : Phase) (s : State) : (setPhase p s).ctx = s.ctx := rfl
@[simp] theorem setPhase_ie (p : Phase) (s : State) : (setPhase p s).ie = s.ie := rfl
@[simp] theorem setPhase_halted (p : Phase) (s : State) : (setPhase p s).halted = s.halted := rfl
@[simp] theorem setPhase_isrPc (p : Phase) (s : State) : (setPhase p s).isrPc = s.isrPc := rfl
@[simp] theorem setPhase_mainPc (p : Phase) (s : State) : (setPhase p s).mainPc = s.mainPc := rfl
@[simp] theorem setPhase_usbConfiguration (p : Phase) (s : State) : (setPhase p s).usbConfiguration = s.usbConfiguration := rfl
@[simp] theorem setPhase_idleRate (p : Phase) (s : State) : (setPhase p s).idleRate = s.idleRate := rfl
@[simp] theorem setPhase_idleCounter (p : Phase) (s : State) : (setPhase p s).idleCounter = s.idleCounter := rfl
@[simp] theorem setPhase_sofDiv (p : Phase) (s : State) : (setPhase p s).sofDiv = s.sofDiv := rfl
@[simp] theorem setPhase_req (p : Phase) (s : State) : (setPhase p s).req = s.req := rfl
@[simp] theorem setPhase_ce (p : Phase) (s : State) : (setPhase p s).ce = { s.ce with phase := p } := rfl
@[simp] theorem setPhase_sendL (p : Phase) (s : State) : (setPhase p s).sendL = s.sendL := rfl
@[simp] theorem setPhase_report (p : Phase) (s : State) : (setPhase p s).report = s.report := rfl
@[simp] theorem setPhase_raw (p : Phase) (s : State) : (setPhase p s).raw = s.raw := rfl
@[simp] theorem setPhase_cstate (p : Phase) (s : State) : (setPhase p s).cstate = s.cstate := rfl
@[simp] theorem setPhase_epSel (p : Phase) (s : State) : (setPhase p s).epSel = s.epSel := rfl
@[simp] theorem setPhase_devAddr (p : Phase) (s : State) : (setPhase p s).devAddr = s.devAddr := rfl
@[simp] theorem setPhase_adden (p : Phase) (s : State) : (setPhase p s).adden = s.adden := rfl
@[simp] theorem setPhase_frame (p : Phase) (s : State) : (setPhase p s).frame = s.frame := rfl
@[simp] theorem setPhase_eorst (p : Phase) (s : State) : (setPhase p s).eorst = s.eorst := rfl
@[simp] theorem setPhase_sof (p : Phase) (s : State) : (setPhase p s).sof = s.sof := rfl
@[simp] theorem setPhase_other (p : Phase) (s : State) : (setPhase p s).other = s.other := rfl
@[simp] theorem setPhase_eorste (p : Phase) (s : State) : (setPhase p s).eorste = s.eorste := rfl
@[simp] theorem setPhase_sofe (p : Phase) (s : State) : (setPhase p s).sofe = s.sofe := rfl
@[simp] theorem setPhase_othere (p : Phase) (s : State) : (setPhase p s).othere = s.othere := rfl
@[simp] theorem setPhase_attached (p : Phase) (s : State) : (setPhase p s).attached = s.attached := rfl
@[simp] theorem setPhase_hostRx (p : Phase) (s : State) : (setPhase p s).hostRx = s.hostRx := rfl
@[simp] theorem setPhase_diag (p : Phase) (s : State) : (setPhase p s).diag = s.diag := rfl
@[simp] theorem setPhase_fault (p : Phase) (s : State) : (setPhase p s).fault = s.fault := rfl
@[simp] theorem setPhase_ext (p : Phase) (s : State) : (setPhase p s).ext = s.ext := rfl
@[simp] theorem setPhase_script (p : Phase) (s : State) : (setPhase p s).script = s.script := rfl
@[simp] theorem setPhase_draws (p : Phase) (s : State) : (setPhase p s).draws = s.draws := rfl
@[simp] theorem setPhase_ret (p : Phase) (s : State) : (setPhase p s).ret = s.ret := rfl
@[simp] theorem setPhase_eps (p : Phase) (s : State) : (setPhase p s).eps = s.eps := rfl
@[simp] theorem setPhase_ep (p : Phase) (s : State) (f : EpNum) : (setPhase p s).ep f = s.ep f := rfl
@[simp] theorem portSelect_params (e : EpNum) (s : State) : (portSelect e s).params = s.params := rfl
@[simp] theorem portSelect_ctx (e : EpNum) (s : State) : (portSelect e s).ctx = s.ctx := rfl
@[simp] theorem portSelect_ie (e : EpNum) (s : State) : (portSelect e s).ie = s.ie := rfl
@[simp] theorem portSelect_halted (e : EpNum) (s : State) : (portSelect e s).halted = s.halted := rfl
@[simp] theorem portSelect_isrPc (e : EpNum) (s : State) : (portSelect e s).isrPc = s.isrPc := rfl
@[simp] theorem portSelect_mainPc (e : EpNum) (s : State) : (portSelect e s).mainPc = s.mainPc := rfl
@[simp] theorem portSelect_usbConfiguration (e : EpNum) (s : State) : (portSelect e s).usbConfiguration = s.usbConfiguration := rfl
@[simp] theorem portSelect_idleRate (e : EpNum) (s : State) : (portSelect e s).idleRate = s.idleRate := rfl
@[simp] theorem portSelect_idleCounter (e : EpNum) (s : State) : (portSelect e s).idleCounter = s.idleCounter := rfl
@[simp] theorem portSelect_sofDiv (e : EpNum) (s : State) : (portSelect e s).sofDiv = s.sofDiv := rfl
@[simp] theorem portSelect_req (e : EpNum) (s : State) : (portSelect e s).req = s.req := rfl
@[simp] theorem portSelect_ce (e : EpNum) (s : State) : (portSelect e s).ce = s.ce := rfl
@[simp] theorem portSelect_sendL (e : EpNum) (s : State) : (portSelect e s).sendL = s.sendL := rfl
@[simp] theorem portSelect_report (e : EpNum) (s : State) : (portSelect e s).report = s.report := rfl
@[simp] theorem portSelect_raw (e : EpNum) (s : State) : (portSelect e s).raw = s.raw := rfl
@[simp] theorem portSelect_cstate (e : EpNum) (s : State) : (portSelect e s).cstate = s.cstate := rfl
@[simp] theorem portSelect_epSel (e : EpNum) (s : State) : (portSelect e s).epSel = e := rfl
@[simp] theorem portSelect_devAddr (e : EpNum) (s : State) : (portSelect e s).devAddr = s.devAddr := rfl
@[simp] theorem portSelect_adden (e : EpNum) (s : State) : (portSelect e s).adden = s.adden := rfl
@[simp] theorem portSelect_frame (e : EpNum) (s : State) : (portSelect e s).frame = s.frame := rfl
@[simp] theorem portSelect_eorst (e : EpNum) (s : State) : (portSelect e s).eorst = s.eorst := rfl
@[simp] theorem portSelect_sof (e : EpNum) (s : State) : (portSelect e s).sof = s.sof := rfl
@[simp] theorem portSelect_other (e : EpNum) (s : State) : (portSelect e s).other = s.other := rfl
@[simp] theorem portSelect_eorste (e : EpNum) (s : State) : (portSelect e s).eorste = s.eorste := rfl
@[simp] theorem portSelect_sofe (e : EpNum) (s : State) : (portSelect e s).sofe = s.sofe := rfl
@[simp] theorem portSelect_othere (e : EpNum) (s : State) : (portSelect e s).othere = s.othere := rfl
@[simp] theorem portSelect_attached (e : EpNum) (s : State) : (portSelect e s).attached = s.attached := rfl
@[simp] theorem portSelect_hostRx (e : EpNum) (s : State) : (portSelect e s).hostRx = s.hostRx := rfl
@[simp] theorem portSelect_diag (e : EpNum) (s : State) : (portSelect e s).diag = s.diag := rfl
@[simp] theorem portSelect_fault (e : EpNum) (s : State) : (portSelect e s).fault = s.fault := rfl
@[simp] theorem portSelect_ext (e : EpNum) (s : State) : (portSelect e s).ext = s.ext := rfl
@[simp] theorem portSelect_script (e : EpNum) (s : State) : (portSelect e s).script = s.script := rfl
@[simp] theorem portSelect_draws (e : EpNum) (s : State) : (portSelect e s).draws = s.draws := rfl
@[simp] theorem portSelect_ret (e : EpNum) (s : State) : (portSelect e s).ret = s.ret := rfl
@[simp] theorem portSelect_eps (e : EpNum) (s : State) : (portSelect e s).eps = s.eps := rfl
@[simp] theorem portSelect_ep (e : EpNum) (s : State) (f : EpNum) : (portSelect e s).ep f = s.ep f := rfl

end Sys2Proof.Machine
end

