-- ==== Sys2Proof/Laws/Ops.lean ====
section
/-! SUPPORT. Per shared operation, one lemma that says all it can do; later proofs cite it. -/

namespace Sys2Proof.Machine

/-- The codes of the two faults (60_exceptions.md R370, R380). -/
@[simp] theorem FaultRecord.code_unhandledRequest (req : UsbRequest) : (FaultRecord.unhandledRequest req).code = 1 := rfl

@[simp] theorem FaultRecord.code_portMisuse (p : PortPrimitive) (e : EpNum) : (FaultRecord.portMisuse p e).code = 2 := rfl

/-- COMMIT (R153): dropped on a disabled endpoint, PORT_MISUSE with no free bank, else the bank is handed over. -/
theorem portCommit_cases (s : State) :
    ((s.ep s.epSel).en = false ∧ portCommit s = s) ∨
    ((s.ep s.epSel).en = true ∧ bankCount (s.ep s.epSel).banks ≤ (s.ep s.epSel).committed.length ∧
      portCommit s = raiseFault (.portMisuse .commit s.epSel) s) ∨
    ((s.ep s.epSel).en = true ∧ (s.ep s.epSel).committed.length < bankCount (s.ep s.epSel).banks ∧
      portCommit s = s.modEp s.epSel Endpoint.commitBank) := by
  unfold portCommit
  cases hen : (s.ep s.epSel).en
  · simp
  · by_cases h : bankCount (s.ep s.epSel).banks ≤ (s.ep s.epSel).committed.length
    · simp [h]
    · simp [h]; omega

/-- COMMIT_CLR (R154). -/
theorem portCommitClr_cases (s : State) :
    ((s.ep s.epSel).en = false ∧ portCommitClr s = s) ∨
    ((s.ep s.epSel).en = true ∧ bankCount (s.ep s.epSel).banks ≤ (s.ep s.epSel).committed.length ∧
      portCommitClr s = raiseFault (.portMisuse .commitClr s.epSel) s) ∨
    ((s.ep s.epSel).en = true ∧ (s.ep s.epSel).committed.length < bankCount (s.ep s.epSel).banks ∧
      portCommitClr s = s.modEp s.epSel fun x => x.commitBank.clearDone) := by
  unfold portCommitClr
  cases hen : (s.ep s.epSel).en
  · simp
  · by_cases h : bankCount (s.ep s.epSel).banks ≤ (s.ep s.epSel).committed.length
    · simp [h]
    · simp [h]; omega

/-- FIFO_WRITE (R156): dropped, PORT_MISUSE with no room, else the byte is appended. -/
theorem portFifoWrite_cases (b : Byte) (s : State) :
    ((s.ep s.epSel).en = false ∧ portFifoWrite b s = s) ∨
    ((s.ep s.epSel).en = true ∧
      (bankCount (s.ep s.epSel).banks ≤ (s.ep s.epSel).committed.length ∨
        (s.ep s.epSel).size ≤ (s.ep s.epSel).cur.length) ∧
      portFifoWrite b s = raiseFault (.portMisuse .fifoWrite s.epSel) s) ∨
    ((s.ep s.epSel).wral = true ∧
      portFifoWrite b s = s.modEp s.epSel fun x => { x with cur := x.cur ++ [b] }) := by
  unfold portFifoWrite Endpoint.wral
  cases hen : (s.ep s.epSel).en
  · simp
  · by_cases h : bankCount (s.ep s.epSel).banks ≤ (s.ep s.epSel).committed.length ∨
        (s.ep s.epSel).size ≤ (s.ep s.epSel).cur.length
    · simp [h]
    · simp only [Bool.not_true, Bool.false_eq_true, if_false, h, false_and, and_false, false_or]
      simp only [not_or, Nat.not_le] at h
      simp [h]

/-- FIFO_WRITE with room (R156). -/
theorem portFifoWrite_room {b : Byte} {s : State} (he : (s.ep s.epSel).en = true)
    (hb : (s.ep s.epSel).committed.length < bankCount (s.ep s.epSel).banks)
    (hc : (s.ep s.epSel).cur.length < (s.ep s.epSel).size) :
    portFifoWrite b s = s.modEp s.epSel fun x => { x with cur := x.cur ++ [b] } := by
  rcases portFifoWrite_cases b s with ⟨h, _⟩ | ⟨_, h, _⟩ | ⟨_, h⟩
  · rw [he] at h; cases h
  · omega
  · exact h

/-- FIFO_READ (R155): the oldest byte leaves the FIFO, or a free byte and the FIFO as it was. -/
theorem portFifoRead_cases (s : State) :
    ((s.ep s.epSel).outbuf = [] ∧
      portFifoRead s = (Config.emptyFifoByte s.draws, { s with draws := s.draws + 1 })) ∨
    (∃ b rest, (s.ep s.epSel).outbuf = b :: rest ∧
      portFifoRead s = (b, s.modEp s.epSel fun x => { x with outbuf := rest })) := by
  unfold portFifoRead
  cases h : (s.ep s.epSel).outbuf with
  | nil => simp
  | cons b rest => exact .inr ⟨b, rest, rfl, rfl⟩

/-- What no port primitive of a handler changes: the context, the positions, the parameters, the schedule, the host's
trace, the memories and the block variables. -/
structure SameOutsidePort (s t : State) : Prop where
  params : t.params = s.params
  ctx : t.ctx = s.ctx
  isrPc : t.isrPc = s.isrPc
  mainPc : t.mainPc = s.mainPc
  usbConfiguration : t.usbConfiguration = s.usbConfiguration
  idleRate : t.idleRate = s.idleRate
  idleCounter : t.idleCounter = s.idleCounter
  sofDiv : t.sofDiv = s.sofDiv
  req : t.req = s.req
  ce : t.ce = s.ce
  sendL : t.sendL = s.sendL
  report : t.report = s.report
  raw : t.raw = s.raw
  cstate : t.cstate = s.cstate
  frame : t.frame = s.frame
  attached : t.attached = s.attached
  hostRx : t.hostRx = s.hostRx
  diag : t.diag = s.diag
  ext : t.ext = s.ext
  script : t.script = s.script

theorem portCommit_same (s : State) : SameOutsidePort s (portCommit s) := by
  rcases portCommit_cases s with ⟨_, h⟩ | ⟨_, _, h⟩ | ⟨_, _, h⟩ <;> rw [h] <;> constructor <;> rfl

theorem portCommitClr_same (s : State) : SameOutsidePort s (portCommitClr s) := by
  rcases portCommitClr_cases s with ⟨_, h⟩ | ⟨_, _, h⟩ | ⟨_, _, h⟩ <;> rw [h] <;> constructor <;> rfl

theorem portFifoWrite_same (b : Byte) (s : State) : SameOutsidePort s (portFifoWrite b s) := by
  rcases portFifoWrite_cases b s with ⟨_, h⟩ | ⟨_, _, h⟩ | ⟨_, h⟩ <;> rw [h] <;> constructor <;> rfl

theorem portFifoRead_same (s : State) : SameOutsidePort s (portFifoRead s).2 := by
  rcases portFifoRead_cases s with ⟨_, h⟩ | ⟨b, rest, _, h⟩ <;> rw [h] <;> constructor <;> rfl

end Sys2Proof.Machine
end

