-- ==== Sys2Proof/Laws/PerInstr.lean ====
section
/-! SUPPORT. The family OpcodeRow: per operation, that its encoding stands in its row of spec/opcode_table.json: the
space of the row's format, and the row's match under the row's mask. -/

namespace Sys2Proof.Laws

/-- The space, the match and the mask of an operation's row in spec/opcode_table.json. -/
def opcodeRow : Instr → OpFormat × Half × Half
  | .setAddress _ _ => (.setup, 0x0500, 0xFFE0)
  | .setConfiguration _ _ => (.setup, 0x0900, 0xFFE0)
  | .clearFeature _ _ _ => (.setup, 0x0102, 0xFF5F)
  | .setIdle _ _ => (.setup, 0x0A20, 0xFFE0)
  | .getDescriptor _ _ => (.setup, 0x0680, 0xFFE0)
  | .getReport _ _ => (.setup, 0x01A0, 0xFFE0)
  | .fatalUnhandled _ => (.setup, 0x0000, 0x0000)
  | .devIsr => (.code, 0x01, 0xFF)
  | .epIsr => (.code, 0x02, 0xFF)
  | .eorstHandler => (.code, 0x03, 0xFF)
  | .autoTick => (.code, 0x04, 0xFF)
  | .autoWrite => (.code, 0x05, 0xFF)
  | .setupIntake => (.code, 0x06, 0xFF)
  | .descSearch _ _ => (.code, 0x07, 0xFF)
  | .ctrlFifoWrite _ _ => (.code, 0x08, 0xFF)
  | .send => (.code, 0x10, 0xFF)
  | .reportUpdate _ => (.code, 0x11, 0xFF)
  | .decode => (.code, 0x12, 0xFF)
  | .syncCheck => (.code, 0x13, 0xFF)
  | .pollCycle _ => (.code, 0x14, 0xFF)
  | .remap _ => (.code, 0x15, 0xFF)
  | .vote _ => (.code, 0x16, 0xFF)
  | .decodeRawByte _ => (.code, 0x17, 0xFF)
  | .decodeGroup _ _ => (.code, 0x18, 0xFF)
  | .select _ => (.code, 0x20, 0xFF)
  | .readStatus => (.code, 0x21, 0xFF)
  | .ackSetup => (.code, 0x22, 0xFF)
  | .commit => (.code, 0x23, 0xFF)
  | .commitClr => (.code, 0x24, 0xFF)
  | .fifoRead => (.code, 0x25, 0xFF)
  | .fifoWrite _ => (.code, 0x26, 0xFF)
  | .stall => (.code, 0x27, 0xFF)
  | .epReset => (.code, 0x28, 0xFF)
  | .epConfigure _ => (.code, 0x29, 0xFF)
  | .ep0Init => (.code, 0x2A, 0xFF)
  | .setDevaddr _ => (.code, 0x2B, 0xFF)
  | .readFrame => (.code, 0x2C, 0xFF)
  | .readDevint => (.code, 0x2D, 0xFF)
  | .clearDevint => (.code, 0x2E, 0xFF)
  | .armSetupIrq => (.code, 0x2F, 0xFF)
  | .hBusReset => (.code, 0x40, 0xFF)
  | .hSof => (.code, 0x41, 0xFF)
  | .hSetup _ _ => (.code, 0x42, 0xFF)
  | .hIn _ _ => (.code, 0x43, 0xFF)
  | .hOut _ _ _ => (.code, 0x44, 0xFF)
  | .hDeveventOther => (.code, 0x45, 0xFF)

/-- The bits of an encoding that the table numbers: the first byte, and in the SETUP space the second above it. -/
def keyBits (format : OpFormat) (bs : List Byte) : Half :=
  match format with
  | .setup => halfOfBytes (bs.getD 0 0) (bs.getD 1 0)
  | .code => halfOfBytes (bs.getD 0 0) 0

/-- What a request's row comes to: the row's bits of its key. -/
theorem keyBits_ofFields (bm br : Byte) (a : SetupArgs) :
    keyBits .setup (UsbRequest.ofFields bm br a).bytes = halfOfBytes bm br := rfl

/-- A one-byte code under its row's mask. -/
theorem row_code (code : Byte) (h : halfOfBytes code 0 &&& 0xFF = halfOfBytes code 0) (bs : List Byte) :
    keyBits .code (code :: bs) &&& 0xFF = halfOfBytes code 0 := h

/-- The encoding of a well-formed operation stands in the operation's row. -/
def OpcodeRow.Statement (i : Instr) : Prop :=
  i.wf = true → i.format = (opcodeRow i).1 ∧ keyBits i.format (encode i) &&& (opcodeRow i).2.2 = (opcodeRow i).2.1

theorem OpcodeRow.setAddress (recipient : BitVec 5) (args : SetupArgs) : OpcodeRow.Statement (.setAddress recipient args) :=
  fun hwf => ⟨rfl, by
    clear hwf
    simp only [Instr.format, Instr.packet, encode, Option.isSome_some, if_true, keyBits_ofFields, opcodeRow]
    revert recipient; decide⟩

theorem OpcodeRow.setConfiguration (recipient : BitVec 5) (args : SetupArgs) : OpcodeRow.Statement (.setConfiguration recipient args) :=
  fun hwf => ⟨rfl, by
    clear hwf
    simp only [Instr.format, Instr.packet, encode, Option.isSome_some, if_true, keyBits_ofFields, opcodeRow]
    revert recipient; decide⟩

theorem OpcodeRow.clearFeature (dir : Bool) (cls : Bool) (args : SetupArgs) : OpcodeRow.Statement (.clearFeature dir cls args) :=
  fun hwf => ⟨rfl, by
    clear hwf
    simp only [Instr.format, Instr.packet, encode, Option.isSome_some, if_true, keyBits_ofFields, opcodeRow]
    revert dir cls; decide⟩

theorem OpcodeRow.setIdle (recipient : BitVec 5) (args : SetupArgs) : OpcodeRow.Statement (.setIdle recipient args) :=
  fun hwf => ⟨rfl, by
    clear hwf
    simp only [Instr.format, Instr.packet, encode, Option.isSome_some, if_true, keyBits_ofFields, opcodeRow]
    revert recipient; decide⟩

theorem OpcodeRow.getDescriptor (recipient : BitVec 5) (args : SetupArgs) : OpcodeRow.Statement (.getDescriptor recipient args) :=
  fun hwf => ⟨rfl, by
    clear hwf
    simp only [Instr.format, Instr.packet, encode, Option.isSome_some, if_true, keyBits_ofFields, opcodeRow]
    revert recipient; decide⟩

theorem OpcodeRow.getReport (recipient : BitVec 5) (args : SetupArgs) : OpcodeRow.Statement (.getReport recipient args) :=
  fun hwf => ⟨rfl, by
    clear hwf
    simp only [Instr.format, Instr.packet, encode, Option.isSome_some, if_true, keyBits_ofFields, opcodeRow]
    revert recipient; decide⟩

theorem OpcodeRow.fatalUnhandled (req : UsbRequest) : OpcodeRow.Statement (.fatalUnhandled req) :=
  fun _ => ⟨rfl, BitVec.and_zero⟩

theorem OpcodeRow.devIsr : OpcodeRow.Statement .devIsr :=
  fun _ => ⟨rfl, row_code 0x01 (by decide) _⟩

theorem OpcodeRow.epIsr : OpcodeRow.Statement .epIsr :=
  fun _ => ⟨rfl, row_code 0x02 (by decide) _⟩

theorem OpcodeRow.eorstHandler : OpcodeRow.Statement .eorstHandler :=
  fun _ => ⟨rfl, row_code 0x03 (by decide) _⟩

theorem OpcodeRow.autoTick : OpcodeRow.Statement .autoTick :=
  fun _ => ⟨rfl, row_code 0x04 (by decide) _⟩

theorem OpcodeRow.autoWrite : OpcodeRow.Statement .autoWrite :=
  fun _ => ⟨rfl, row_code 0x05 (by decide) _⟩

theorem OpcodeRow.setupIntake : OpcodeRow.Statement .setupIntake :=
  fun _ => ⟨rfl, row_code 0x06 (by decide) _⟩

theorem OpcodeRow.descSearch (v : Half) (x : Half) : OpcodeRow.Statement (.descSearch v x) :=
  fun _ => ⟨rfl, row_code 0x07 (by decide) _⟩

theorem OpcodeRow.ctrlFifoWrite (src : List Byte) (len : Byte) : OpcodeRow.Statement (.ctrlFifoWrite src len) :=
  fun _ => ⟨rfl, row_code 0x08 (by decide) _⟩

theorem OpcodeRow.send : OpcodeRow.Statement .send :=
  fun _ => ⟨rfl, row_code 0x10 (by decide) _⟩

theorem OpcodeRow.reportUpdate (r : List Byte) : OpcodeRow.Statement (.reportUpdate r) :=
  fun _ => ⟨rfl, row_code 0x11 (by decide) _⟩

theorem OpcodeRow.decode : OpcodeRow.Statement .decode :=
  fun _ => ⟨rfl, row_code 0x12 (by decide) _⟩

theorem OpcodeRow.syncCheck : OpcodeRow.Statement .syncCheck :=
  fun _ => ⟨rfl, row_code 0x13 (by decide) _⟩

theorem OpcodeRow.pollCycle (raw : List Byte) : OpcodeRow.Statement (.pollCycle raw) :=
  fun _ => ⟨rfl, row_code 0x14 (by decide) _⟩

theorem OpcodeRow.remap (c : List Byte) : OpcodeRow.Statement (.remap c) :=
  fun _ => ⟨rfl, row_code 0x15 (by decide) _⟩

theorem OpcodeRow.vote (n : BitVec 4) : OpcodeRow.Statement (.vote n) :=
  fun _ => ⟨rfl, row_code 0x16 (by decide) _⟩

theorem OpcodeRow.decodeRawByte (b : Byte) : OpcodeRow.Statement (.decodeRawByte b) :=
  fun _ => ⟨rfl, row_code 0x17 (by decide) _⟩

theorem OpcodeRow.decodeGroup (raw : List Byte) (i : Nat) : OpcodeRow.Statement (.decodeGroup raw i) :=
  fun _ => ⟨rfl, row_code 0x18 (by decide) _⟩

theorem OpcodeRow.select (e : EpNum) : OpcodeRow.Statement (.select e) :=
  fun _ => ⟨rfl, row_code 0x20 (by decide) _⟩

theorem OpcodeRow.readStatus : OpcodeRow.Statement .readStatus :=
  fun _ => ⟨rfl, row_code 0x21 (by decide) _⟩

theorem OpcodeRow.ackSetup : OpcodeRow.Statement .ackSetup :=
  fun _ => ⟨rfl, row_code 0x22 (by decide) _⟩

theorem OpcodeRow.commit : OpcodeRow.Statement .commit :=
  fun _ => ⟨rfl, row_code 0x23 (by decide) _⟩

theorem OpcodeRow.commitClr : OpcodeRow.Statement .commitClr :=
  fun _ => ⟨rfl, row_code 0x24 (by decide) _⟩

theorem OpcodeRow.fifoRead : OpcodeRow.Statement .fifoRead :=
  fun _ => ⟨rfl, row_code 0x25 (by decide) _⟩

theorem OpcodeRow.fifoWrite (b : Byte) : OpcodeRow.Statement (.fifoWrite b) :=
  fun _ => ⟨rfl, row_code 0x26 (by decide) _⟩

theorem OpcodeRow.stall : OpcodeRow.Statement .stall :=
  fun _ => ⟨rfl, row_code 0x27 (by decide) _⟩

theorem OpcodeRow.epReset : OpcodeRow.Statement .epReset :=
  fun _ => ⟨rfl, row_code 0x28 (by decide) _⟩

theorem OpcodeRow.epConfigure (c : EndpointConfig) : OpcodeRow.Statement (.epConfigure c) :=
  fun _ => ⟨rfl, row_code 0x29 (by decide) _⟩

theorem OpcodeRow.ep0Init : OpcodeRow.Statement .ep0Init :=
  fun _ => ⟨rfl, row_code 0x2A (by decide) _⟩

theorem OpcodeRow.setDevaddr (a : DevAddr) : OpcodeRow.Statement (.setDevaddr a) :=
  fun _ => ⟨rfl, row_code 0x2B (by decide) _⟩

theorem OpcodeRow.readFrame : OpcodeRow.Statement .readFrame :=
  fun _ => ⟨rfl, row_code 0x2C (by decide) _⟩

theorem OpcodeRow.readDevint : OpcodeRow.Statement .readDevint :=
  fun _ => ⟨rfl, row_code 0x2D (by decide) _⟩

theorem OpcodeRow.clearDevint : OpcodeRow.Statement .clearDevint :=
  fun _ => ⟨rfl, row_code 0x2E (by decide) _⟩

theorem OpcodeRow.armSetupIrq : OpcodeRow.Statement .armSetupIrq :=
  fun _ => ⟨rfl, row_code 0x2F (by decide) _⟩

theorem OpcodeRow.hBusReset : OpcodeRow.Statement .hBusReset :=
  fun _ => ⟨rfl, row_code 0x40 (by decide) _⟩

theorem OpcodeRow.hSof : OpcodeRow.Statement .hSof :=
  fun _ => ⟨rfl, row_code 0x41 (by decide) _⟩

theorem OpcodeRow.hSetup (a : DevAddr) (p : List Byte) : OpcodeRow.Statement (.hSetup a p) :=
  fun _ => ⟨rfl, row_code 0x42 (by decide) _⟩

theorem OpcodeRow.hIn (a : DevAddr) (e : EpNum) : OpcodeRow.Statement (.hIn a e) :=
  fun _ => ⟨rfl, row_code 0x43 (by decide) _⟩

theorem OpcodeRow.hOut (a : DevAddr) (e : EpNum) (d : List Byte) : OpcodeRow.Statement (.hOut a e d) :=
  fun _ => ⟨rfl, row_code 0x44 (by decide) _⟩

theorem OpcodeRow.hDeveventOther : OpcodeRow.Statement .hDeveventOther :=
  fun _ => ⟨rfl, row_code 0x45 (by decide) _⟩

end Sys2Proof.Laws
end

