-- ==== Sys2Proof/Laws/Sequencer.lean ====
section
/-! SUPPORT. How lines are run: one unfolding of `runLines` per case, what a single line can never change, and the
induction over a run of lines once for all. -/

namespace Sys2Proof.Machine

/-- No line changes the context, a position, a parameter, the schedule, the host's trace or the frame number. -/
structure LineFrame (s t : State) : Prop where
  params : t.params = s.params
  ctx : t.ctx = s.ctx
  isrPc : t.isrPc = s.isrPc
  mainPc : t.mainPc = s.mainPc
  script : t.script = s.script
  hostRx : t.hostRx = s.hostRx
  frame : t.frame = s.frame
  othere : t.othere = s.othere

theorem SameOutsidePort.lineFrame {s t : State} (h : SameOutsidePort s t) (ho : t.othere = s.othere) : LineFrame s t :=
  ⟨h.params, h.ctx, h.isrPc, h.mainPc, h.script, h.hostRx, h.frame, ho⟩

theorem portCommit_othere (s : State) : (portCommit s).othere = s.othere := by
  rcases portCommit_cases s with ⟨_, h⟩ | ⟨_, _, h⟩ | ⟨_, _, h⟩ <;> rw [h] <;> rfl

theorem portCommitClr_othere (s : State) : (portCommitClr s).othere = s.othere := by
  rcases portCommitClr_cases s with ⟨_, h⟩ | ⟨_, _, h⟩ | ⟨_, _, h⟩ <;> rw [h] <;> rfl

theorem portFifoWrite_othere (b : Byte) (s : State) : (portFifoWrite b s).othere = s.othere := by
  rcases portFifoWrite_cases b s with ⟨_, h⟩ | ⟨_, _, h⟩ | ⟨_, h⟩ <;> rw [h] <;> rfl

theorem lineStep_frame (l : Line) (s : State) : LineFrame s (lineStep l s).1 := by
  cases l with
  | commit => exact (portCommit_same s).lineFrame (portCommit_othere s)
  | commitClr => exact (portCommitClr_same s).lineFrame (portCommitClr_othere s)
  | fifoWrite b => exact (portFifoWrite_same b s).lineFrame (portFifoWrite_othere b s)
  | intakeByte i =>
    rcases portFifoRead_cases s with ⟨_, h⟩ | ⟨b, rest, _, h⟩ <;>
      simp only [lineStep, h] <;> constructor <;> rfl
  | sample raw => cases raw <;> simp only [lineStep] <;> constructor <;> dsimp only
  | _ => exact ⟨rfl, rfl, rfl, rfl, rfl, rfl, rfl, rfl⟩

/-- No lines left. -/
theorem runLines_nil (n : Nat) (s : State) : runLines n [] s = (s, []) := by
  cases n <;> rfl

/-- A line that stops the run: the machine is halted, the line holds, or it pauses. -/
theorem runLines_stop {n : Nat} {l : Line} {ls : List Line} {s : State}
    (h : (s.halted || held l s || pauses l) = true) : runLines (n + 1) (l :: ls) s = (s, l :: ls) := by
  simp only [runLines, h, if_true]

/-- DELAY is passed over. -/
theorem runLines_delay {n : Nat} {ls : List Line} {s : State} (h : s.halted = false) :
    runLines (n + 1) (.delay :: ls) s = runLines n ls s := by
  simp [runLines, h, held, pauses]

/-- A line that runs. -/
theorem runLines_line {n : Nat} {l : Line} {ls : List Line} {s : State}
    (h : s.halted = false) (hh : held l s = false) (hp : pauses l = false) (hd : l ≠ .delay) :
    runLines (n + 1) (l :: ls) s = runLines n ((lineStep l s).2 ++ ls) (lineStep l s).1 := by
  simp [runLines, h, hh, hp, hd]

/-- A run of FIFO_WRITEs with room for all of them (R156, 42_control.md R240). -/
theorem runLines_fifoWrites (n : Nat) (ls : List Line) : ∀ (bs : List Byte) (s : State), s.halted = false →
    (s.ep s.epSel).en = true → (s.ep s.epSel).committed.length < bankCount (s.ep s.epSel).banks →
    (s.ep s.epSel).cur.length + bs.length ≤ (s.ep s.epSel).size →
    runLines (bs.length + n) (bs.map .fifoWrite ++ ls) s =
      runLines n ls (s.modEp s.epSel fun x => { x with cur := x.cur ++ bs })
  | [], s, _, _, _, _ => by
    simp only [List.length_nil, Nat.zero_add, List.map_nil, List.nil_append]
    rw [State.modEp_id _ _ _ (by simp)]
  | b :: bs, s, hh, he, hb, hc => by
    simp only [List.length_cons] at hc
    have hw := portFifoWrite_room (b := b) he hb (by omega)
    rw [List.length_cons, Nat.add_right_comm, List.map_cons, List.cons_append,
      runLines_line hh rfl rfl (by simp)]
    simp only [lineStep, hw, List.nil_append]
    rw [runLines_fifoWrites n ls bs _ (by simpa using hh) (by simpa using he) (by simpa using hb)
      (by simp; omega)]
    simp

/-- Reads of report bytes, each with its FIFO_WRITE, with room for all of them. -/
theorem runLines_reportWrites (n : Nat) (ls : List Line) : ∀ (is : List (Fin 8)) (s : State), s.halted = false →
    (s.ep s.epSel).en = true → (s.ep s.epSel).committed.length < bankCount (s.ep s.epSel).banks →
    (s.ep s.epSel).cur.length + is.length ≤ (s.ep s.epSel).size →
    runLines (2 * is.length + n) (is.map .readReport ++ ls) s =
      runLines n ls (s.modEp s.epSel fun x => { x with cur := x.cur ++ is.map (fun i => memRead s.report i.val) })
  | [], s, _, _, _, _ => by
    simp only [List.length_nil, Nat.mul_zero, Nat.zero_add, List.map_nil, List.nil_append]
    rw [State.modEp_id _ _ _ (by simp)]
  | i :: is, s, hh, he, hb, hc => by
    simp only [List.length_cons] at hc
    have hw := portFifoWrite_room (b := memRead s.report i.val) he hb (by omega)
    have hn : 2 * (i :: is).length + n = 2 * is.length + n + 1 + 1 := by simp only [List.length_cons]; omega
    rw [hn, List.map_cons, List.cons_append, runLines_line hh rfl rfl (by simp)]
    simp only [lineStep, List.cons_append, List.nil_append]
    rw [runLines_line hh rfl rfl (by simp)]
    simp only [lineStep, hw, List.nil_append]
    rw [runLines_reportWrites n ls is _ (by simpa using hh) (by simpa using he) (by simpa using hb)
      (by simp; omega)]
    simp

/-- The whole report written with room for it (43_report.md R292, R293, 42_control.md R239). -/
theorem runLines_writeReport (n : Nat) (ls : List Line) (s : State) (hh : s.halted = false)
    (he : (s.ep s.epSel).en = true) (hb : (s.ep s.epSel).committed.length < bankCount (s.ep s.epSel).banks)
    (hc : (s.ep s.epSel).cur.length + 8 ≤ (s.ep s.epSel).size) :
    runLines (n + 16) (writeReportCode ++ ls) s =
      runLines n ls (s.modEp s.epSel fun x => { x with cur := x.cur ++ (List.range 8).map (memRead s.report) }) := by
  rw [Nat.add_comm]
  exact runLines_reportWrites n ls (List.finRange 8) s hh he hb hc

/-- CTRL_FIFO_WRITE's bytes from `ce.pos + a` on, each a read of `ce.pos`, a read of the data and its FIFO_WRITE, with
room for all of them (R240): at most three lines a byte, and the bytes the data has are written. -/
theorem runLines_sourceWrites (ls : List Line) : ∀ (m a : Nat) (s : State), s.halted = false →
    (s.ep s.epSel).en = true → (s.ep s.epSel).committed.length < bankCount (s.ep s.epSel).banks →
    (s.ep s.epSel).cur.length + m ≤ (s.ep s.epSel).size →
    ∃ k, k ≤ 3 * m ∧ ∀ n, runLines (k + n) ((List.range' a m).map .cwByte ++ ls) s =
      runLines n ls
        (s.modEp s.epSel fun x => { x with cur := x.cur ++ (s.ce.src.drop (s.ce.pos.toNat + a)).take m })
  | 0, a, s, _, _, _, _ => by
    refine ⟨0, Nat.le_refl _, fun n => ?_⟩
    simp only [Nat.zero_add, List.range'_zero, List.map_nil, List.nil_append, List.take_zero]
    rw [State.modEp_id _ _ _ (by simp)]
  | m + 1, a, s, hh, he, hb, hc => by
    by_cases hlt : s.ce.pos.toNat + a < s.ce.src.length
    · have hget : s.ce.src[s.ce.pos.toNat + a]? = some s.ce.src[s.ce.pos.toNat + a] := List.getElem?_eq_getElem hlt
      have hw := portFifoWrite_room (b := s.ce.src[s.ce.pos.toNat + a]) he hb (by omega)
      have hdrop : (s.ce.src.drop (s.ce.pos.toNat + a)).take (m + 1) =
          s.ce.src[s.ce.pos.toNat + a] :: (s.ce.src.drop (s.ce.pos.toNat + (a + 1))).take m := by
        rw [List.drop_eq_getElem_cons hlt, List.take_succ_cons, Nat.add_assoc]
      obtain ⟨k, hk, hrun⟩ := runLines_sourceWrites ls m (a + 1)
        (s.modEp s.epSel fun x => { x with cur := x.cur ++ [s.ce.src[s.ce.pos.toNat + a]] })
        (by simpa using hh) (by simpa using he) (by simpa using hb) (by simp; omega)
      refine ⟨k + 3, by omega, fun n => ?_⟩
      rw [Nat.add_right_comm, List.range'_succ, List.map_cons, List.cons_append, runLines_line hh rfl rfl (by simp)]
      simp only [lineStep, List.cons_append, List.nil_append]
      rw [runLines_line hh rfl rfl (by simp)]
      simp only [lineStep, sourceCode, hget, List.cons_append, List.nil_append]
      rw [runLines_line hh rfl rfl (by simp)]
      simp only [lineStep, hw, List.nil_append]
      rw [hrun, hdrop]
      simp
    · have hget : s.ce.src[s.ce.pos.toNat + a]? = none := List.getElem?_eq_none (by omega)
      have hnil : ∀ i, a ≤ i → s.ce.src.drop (s.ce.pos.toNat + i) = [] := fun i hi => List.drop_eq_nil_of_le (by omega)
      obtain ⟨k, hk, hrun⟩ := runLines_sourceWrites ls m (a + 1) s hh he hb (by omega)
      refine ⟨k + 2, by omega, fun n => ?_⟩
      rw [Nat.add_right_comm, List.range'_succ, List.map_cons, List.cons_append, runLines_line hh rfl rfl (by simp)]
      simp only [lineStep, List.cons_append, List.nil_append]
      rw [runLines_line hh rfl rfl (by simp)]
      simp only [lineStep, sourceCode, hget, List.nil_append]
      rw [hrun, hnil a (by omega), hnil (a + 1) (by omega)]
      simp

/-- The operand bytes of a row, as `req` holds them. -/
def operandsOf (r : Request) (req : UsbRequest) : List Byte :=
  (operandBytes r).map fun k => req.bytes.getD k 0

/-- A handler reads its operand bytes of `req`, one line each, and goes on with its body (30_encoding.md R116). -/
theorem runLines_request (n : Nat) (r : Request) (ls : List Line) (s : State) (h : s.halted = false) :
    runLines (n + (operandBytes r).length) (requestCode s.params r ++ ls) s =
      runLines n (handlerBody s.params r (operandsOf r s.req) ++ ls) s := by
  cases r <;>
    simp [requestCode, handlerFrom, operandBytes, operandsOf, runLines, h, held, pauses, lineStep]

/-- The sampler's bytes are written to Raw one line each (44_decoder.md R335). -/
theorem runLines_fillRaw (n : Nat) (ls : List Line) (bs : List Byte) : ∀ (ks : List (Fin 32)) (s : State),
    s.halted = false →
    runLines (ks.length + n) (ks.map (fun k => .setRawByte k (bs.getD k.val 0)) ++ ls) s =
      runLines n ls { s with raw := ks.foldl (fun m k => memWrite m k.val (bs.getD k.val 0)) s.raw }
  | [], s, _ => by simp
  | k :: ks, s, h => by
    rw [List.length_cons, Nat.add_right_comm, List.map_cons, List.cons_append, runLines_line h rfl rfl (by simp)]
    simp only [lineStep, List.nil_append, List.foldl_cons]
    exact runLines_fillRaw n ls bs ks _ h

/-- DECODE of one group: four reads of Raw and the write of a byte of CState (44_decoder.md R332, R333). -/
theorem runLines_decodeGroup (n : Nat) (i : Fin 8) (ls : List Line) (s : State) (h : s.halted = false) :
    runLines (n + 5) (.decodeByte i [] :: ls) s =
      runLines n ls
        { s with
          cstate := memWrite s.cstate i.val (groupByte (memRead s.raw (4 * i.val)) (memRead s.raw (4 * i.val + 1))
            (memRead s.raw (4 * i.val + 2)) (memRead s.raw (4 * i.val + 3))) } := by
  simp [runLines, h, held, pauses, lineStep, decodeFrom, groupOf]

/-- What every line keeps, and a set of lines every line stays in, a run of lines keeps. -/
theorem runLines_invariant (P : State → Prop) (Q : Line → Prop)
    (hstep : ∀ l s, Q l → s.halted = false → held l s = false → P s →
      P (lineStep l s).1 ∧ ∀ l' ∈ (lineStep l s).2, Q l') :
    ∀ (n : Nat) (ls : List Line) (s : State), (∀ l ∈ ls, Q l) → P s →
      P (runLines n ls s).1 ∧ ∀ l ∈ (runLines n ls s).2, Q l
  | 0, ls, s, hq, hp => ⟨hp, hq⟩
  | n + 1, [], s, hq, hp => ⟨hp, hq⟩
  | n + 1, l :: ls, s, hq, hp => by
    have htail : ∀ l ∈ ls, Q l := fun l' h => hq l' (List.mem_cons_of_mem _ h)
    by_cases hstop : (s.halted || held l s || pauses l) = true
    · rw [runLines_stop hstop]; exact ⟨hp, hq⟩
    · simp only [Bool.or_eq_true, not_or, Bool.not_eq_true] at hstop
      obtain ⟨⟨hh, hheld⟩, hpause⟩ := hstop
      by_cases hd : l = .delay
      · subst hd
        rw [runLines_delay hh]
        exact runLines_invariant P Q hstep n ls s htail hp
      · rw [runLines_line hh hheld hpause hd]
        obtain ⟨hp', hq'⟩ := hstep l s (hq l (List.mem_cons_self ..)) hh hheld hp
        refine runLines_invariant P Q hstep n _ _ ?_ hp'
        intro l' h
        rcases List.mem_append.mp h with h | h
        · exact hq' l' h
        · exact htail l' h

/-- A whole run of lines keeps what no line changes. -/
theorem runLines_frame (n : Nat) (ls : List Line) (s : State) : LineFrame s (runLines n ls s).1 := by
  refine (runLines_invariant (fun t => LineFrame s t) (fun _ => True) ?_ n ls s (fun _ _ => trivial)
    ⟨rfl, rfl, rfl, rfl, rfl, rfl, rfl, rfl⟩).1
  intro l t _ _ _ h
  have g := lineStep_frame l t
  exact ⟨⟨g.params.trans h.params, g.ctx.trans h.ctx, g.isrPc.trans h.isrPc, g.mainPc.trans h.mainPc,
    g.script.trans h.script, g.hostRx.trans h.hostRx, g.frame.trans h.frame, g.othere.trans h.othere⟩,
    fun _ _ => trivial⟩

/-- Parking no lines changes nothing. -/
@[simp] theorem State.park_nil (s : State) : s.park [] = s := by
  cases s with | mk params ctx => cases ctx <;> rfl

/-- An operation that runs to its end: the state its lines leave. -/
theorem perform_done {ls : List Line} {s t : State} (h : s.halted = false)
    (hr : runLines lineBound ls s = (t, [])) : perform ls s = t := by
  simp [perform, h, hr]

/-- An operation that stops early: the state with the lines left parked at the context's position. -/
theorem perform_parked {ls ls' : List Line} {s t : State} (h : s.halted = false)
    (hr : runLines lineBound ls s = (t, ls')) : perform ls s = t.park ls' := by
  simp [perform, h, hr]

/-- After the halt no operation changes anything (00_scope.md R7(d)). -/
theorem perform_halted {ls : List Line} {s : State} (h : s.halted = true) : perform ls s = s := by
  simp [perform, h]

/-- An interrupt as a whole: not enabled, nothing; else the handler's body from its entry, and then the return, or the
position it stands at. -/
theorem takeInterrupt_cases (h : Ctx) (s : State) :
    (s.canEnter h = false ∧ takeInterrupt h s = s) ∨
    (s.canEnter h = true ∧ ∃ t ls, runLines lineBound (handlerCode h) (interruptEntry h s) = (t, ls) ∧
      ((ls = [] ∧ t.halted = false ∧ takeInterrupt h s = returnFromInterrupt t) ∨
       ((ls ≠ [] ∨ t.halted = true) ∧ takeInterrupt h s = { t with isrPc := ls }))) := by
  unfold takeInterrupt
  cases hc : s.canEnter h
  · simp
  · refine .inr ⟨rfl, _, _, rfl, ?_⟩
    by_cases hr : (runLines lineBound (handlerCode h) (interruptEntry h s)).2 = [] ∧
        !(runLines lineBound (handlerCode h) (interruptEntry h s)).1.halted
    · exact .inl ⟨hr.1, by simpa using hr.2, by rw [if_pos rfl, if_pos hr]⟩
    · refine .inr ⟨?_, by rw [if_pos rfl, if_neg hr]⟩
      by_cases hl : (runLines lineBound (handlerCode h) (interruptEntry h s)).2 = []
      · exact .inr (by simpa [hl] using hr)
      · exact .inl hl

/-- One MAIN step: held, or its next line. -/
theorem mainStep_cases (s : State) :
    mainStep s = s ∨
    ∃ l ls, mainCode s = l :: ls ∧ held l s = false ∧
      mainStep s = { (lineStep l s).1 with mainPc := (lineStep l s).2 ++ ls } := by
  unfold mainStep
  cases hm : mainCode s with
  | nil => exact .inl rfl
  | cons l ls =>
    cases hh : held l s
    · exact .inr ⟨l, ls, rfl, hh, by simp [hh]⟩
    · exact .inl (by simp [hh])

/-- One step inside a handler: the return, held, or its next line. -/
theorem isrStep_cases (s : State) :
    (s.isrPc = [] ∧ isrStep s = returnFromInterrupt s) ∨ isrStep s = s ∨
    ∃ l ls, s.isrPc = l :: ls ∧ held l s = false ∧
      isrStep s = { (lineStep l s).1 with isrPc := (lineStep l s).2 ++ ls } := by
  unfold isrStep
  cases hm : s.isrPc with
  | nil => exact .inl ⟨rfl, rfl⟩
  | cons l ls =>
    cases hh : held l s
    · exact .inr (.inr ⟨l, ls, rfl, hh, by simp [hh]⟩)
    · exact .inr (.inl (by simp [hh]))

/-- The CPU's own step: halted, a handler's step, an interrupt entry, or a MAIN step. -/
theorem cpuStep_cases (s : State) :
    (s.halted = true ∧ cpuStep s = s) ∨
    (s.halted = false ∧ s.ctx ≠ .main ∧ cpuStep s = isrStep s) ∨
    (s.halted = false ∧ s.ctx = .main ∧ s.mayEnter = true ∧
      cpuStep s = interruptEntry (s.enters (Config.devFirst s.draws)) { s with draws := s.draws + 1 }) ∨
    (s.halted = false ∧ s.ctx = .main ∧ s.mayEnter = true ∧ cpuStep s = mainStep { s with draws := s.draws + 1 }) ∨
    (s.halted = false ∧ s.ctx = .main ∧ s.mayEnter = false ∧ cpuStep s = mainStep s) := by
  unfold cpuStep
  cases hh : s.halted
  · cases hc : s.ctx
    · cases hm : s.mayEnter
      · simp
      · cases he : Config.enterNow s.draws <;> simp
    · simp
    · simp
  · simp

end Sys2Proof.Machine
end

