-- ==== Sys2Proof/Laws/Room.lean ====
section
/-! SUPPORT. The room invariant's checker (43_report.md R292): it is monotone in what is known, it goes through a
position line by line, and the report's write sequence is safe where the check of WRAL puts it. -/

namespace Sys2Proof.Machine

/-- `k` knows at least what `k'` knows. -/
structure RoomLe (k k' : Room) : Prop where
  ie : k.ie = true → k'.ie = true
  sel : ∀ e, k'.sel = some e → k.sel = some e
  busy : k'.busy = true → k.busy = true
  acked : k'.acked = true → k.acked = true
  free0 : k'.free0 = true → k.free0 = true
  freeReport : k'.freeReport = true → k.freeReport = true
  cur : k.cur ≤ k'.cur

theorem RoomLe.refl (k : Room) : RoomLe k k := ⟨id, fun _ h => h, id, id, id, id, Nat.le_refl _⟩

theorem RoomLe.start {k k' : Room} (h : RoomLe k k') : RoomLe (.start k.ie) (.start k'.ie) :=
  { ie := h.ie
    sel := fun _ h => by cases h
    busy := fun h => by cases h
    acked := fun h => by cases h
    free0 := fun h => by cases h
    freeReport := fun h => by cases h
    cur := Nat.le_refl _ }

/-- Whatever is known with every CUR empty is at least nothing. -/
theorem RoomLe.to_start {k : Room} (h : k.cur = 0) : RoomLe k (.start true) :=
  { ie := fun _ => rfl
    sel := fun _ h => by cases h
    busy := fun h => by cases h
    acked := fun h => by cases h
    free0 := fun h => by cases h
    freeReport := fun h => by cases h
    cur := Nat.le_of_eq h }

@[simp] theorem Room.when_eq_some {k j : Room} {b : Bool} : k.when b = some j ↔ b = true ∧ k = j := by
  cases b <;> simp [Room.when]

theorem RoomLe.control {k k' : Room} (h : RoomLe k k') (hc : k'.control = true) : k.control = true := by
  simp only [Room.control, Bool.and_eq_true, beq_iff_eq] at hc ⊢
  exact ⟨⟨h.sel _ hc.1.1, h.acked hc.1.2⟩, h.free0 hc.2⟩

theorem RoomLe.write {p : Params} {k k' j' : Room} (h : RoomLe k k') (hj : k'.write p = some j') :
    ∃ j, k.write p = some j ∧ RoomLe j j' := by
  simp only [Room.write, Room.when_eq_some] at hj
  obtain ⟨hc, rfl⟩ := hj
  refine ⟨{ k with cur := k.cur + 1 }, ?_, ⟨h.ie, h.sel, h.busy, h.acked, h.free0, h.freeReport, ?_⟩⟩
  · simp only [Room.write, Room.when_eq_some, and_true]
    simp only [Bool.or_eq_true, Bool.and_eq_true, decide_eq_true_eq, beq_iff_eq] at hc ⊢
    have hcur := h.cur
    rcases hc with ⟨hc, hlt⟩ | ⟨⟨hs, hf⟩, hlt⟩
    · exact .inl ⟨h.control hc, by omega⟩
    · exact .inr ⟨⟨h.sel _ hs, h.freeReport hf⟩, by omega⟩
  · exact Nat.succ_le_succ h.cur

theorem roomLine_mono {p : Params} {k k' j' : Room} (h : RoomLe k k') :
    ∀ {l : Line}, roomLine p k' l = some j' → ∃ j, roomLine p k l = some j ∧ RoomLe j j' := by
  intro l hj
  cases l with
  | select e =>
    cases hj
    exact ⟨_, rfl, ⟨h.ie, fun _ h => h, h.busy, h.acked, h.free0, h.freeReport, h.cur⟩⟩
  | selectReport =>
    cases hj
    exact ⟨_, rfl, ⟨h.ie, fun _ h => h, h.busy, h.acked, h.free0, h.freeReport, h.cur⟩⟩
  | ackSetup =>
    cases hj
    exact ⟨_, rfl, ⟨h.ie, h.sel, h.busy, h.busy, h.free0, h.freeReport, h.cur⟩⟩
  | commit =>
    simp only [roomLine, Room.when_eq_some] at hj
    obtain ⟨hc, rfl⟩ := hj
    exact ⟨_, Room.when_eq_some.mpr ⟨h.control hc, rfl⟩,
      ⟨h.ie, h.sel, h.busy, h.acked, id, h.freeReport, Nat.le_refl _⟩⟩
  | commitClr =>
    simp only [roomLine, Room.when_eq_some, Bool.and_eq_true, beq_iff_eq] at hj
    obtain ⟨⟨hs, hf⟩, rfl⟩ := hj
    exact ⟨_, Room.when_eq_some.mpr ⟨by simp [h.sel _ hs, h.freeReport hf], rfl⟩,
      ⟨h.ie, h.sel, h.busy, h.acked, h.free0, id, Nat.le_refl _⟩⟩
  | fifoWrite b => exact h.write hj
  | readReport i => exact h.write hj
  | cwByte i => exact h.write hj
  | cwSource i => exact h.write hj
  | epConfigure c =>
    simp only [roomLine, Room.when_eq_some, Option.any_eq_true] at hj
    obtain ⟨⟨e, he, hc⟩, rfl⟩ := hj
    exact ⟨_, Room.when_eq_some.mpr ⟨Option.any_eq_true _ _ |>.mpr ⟨e, h.sel _ he, hc⟩, rfl⟩, h⟩
  | setPhase ph =>
    cases hj
    refine ⟨_, rfl, ⟨h.ie, h.sel, id, fun ha => ?_, h.free0, h.freeReport, h.cur⟩⟩
    simp only [Bool.and_eq_true] at ha ⊢
    exact ⟨h.acked ha.1, ha.2⟩
  | setI v =>
    cases v <;> cases hj
    · exact ⟨_, rfl, ⟨id, h.sel, h.busy, h.acked, h.free0, h.freeReport, h.cur⟩⟩
    · exact ⟨_, rfl, .refl _⟩
  | restoreI => cases hj; exact ⟨_, rfl, .refl _⟩
  | boot => cases hj; exact ⟨_, rfl, .refl _⟩
  | readDevint => cases hj; exact ⟨_, rfl, h.start⟩
  | tickConfiguration => cases hj; exact ⟨_, rfl, h.start⟩
  | tickRate => cases hj; exact ⟨_, rfl, h.start⟩
  | tickDivide => cases hj; exact ⟨_, rfl, h.start⟩
  | tickDivided => cases hj; exact ⟨_, rfl, h.start⟩
  | tickCount => cases hj; exact ⟨_, rfl, h.start⟩
  | tickCompare => cases hj; exact ⟨_, rfl, h.start⟩
  | tickCompareRate v => cases hj; exact ⟨_, rfl, h.start⟩
  | autoStatus =>
    simp only [roomLine, Room.when_eq_some, beq_iff_eq] at hj
    obtain ⟨hs, rfl⟩ := hj
    exact ⟨_, Room.when_eq_some.mpr ⟨by simp [h.sel _ hs], rfl⟩,
      ⟨h.ie, h.sel, h.busy, h.acked, h.free0, id, h.cur⟩⟩
  | setupStatus =>
    simp only [roomLine, Room.when_eq_some, beq_iff_eq] at hj
    obtain ⟨hs, rfl⟩ := hj
    exact ⟨_, Room.when_eq_some.mpr ⟨by simp [h.sel _ hs], rfl⟩, h.start⟩
  | dispatch =>
    simp only [roomLine, Room.when_eq_some] at hj
    obtain ⟨hc, rfl⟩ := hj
    exact ⟨_, Room.when_eq_some.mpr ⟨h.control hc, rfl⟩, h.start⟩
  | dispatchOn bm =>
    simp only [roomLine, Room.when_eq_some] at hj
    obtain ⟨hc, rfl⟩ := hj
    exact ⟨_, Room.when_eq_some.mpr ⟨h.control hc, rfl⟩, h.start⟩
  | operand r got =>
    simp only [roomLine, Room.when_eq_some] at hj
    obtain ⟨hc, rfl⟩ := hj
    exact ⟨_, Room.when_eq_some.mpr ⟨h.control hc, rfl⟩, h.start⟩
  | descLength i got =>
    simp only [roomLine, Room.when_eq_some] at hj
    obtain ⟨hc, rfl⟩ := hj
    exact ⟨_, Room.when_eq_some.mpr ⟨h.control hc, rfl⟩, h.start⟩
  | waitTxrdy =>
    cases hj
    exact ⟨_, rfl, ⟨h.ie, h.sel, h.busy, h.acked, id, h.freeReport, h.cur⟩⟩
  | cwWait =>
    simp only [roomLine, Room.when_eq_some, Bool.and_eq_true, beq_iff_eq] at hj
    obtain ⟨⟨hs, ha⟩, rfl⟩ := hj
    exact ⟨_, Room.when_eq_some.mpr ⟨by simp [h.sel _ hs, h.acked ha], rfl⟩,
      ⟨h.ie, h.sel, h.busy, h.acked, id, h.freeReport, h.cur⟩⟩
  | cwFill =>
    simp only [roomLine, Room.when_eq_some] at hj
    obtain ⟨hc, rfl⟩ := hj
    exact ⟨_, Room.when_eq_some.mpr ⟨h.control hc, rfl⟩,
      ⟨h.ie, h.sel, h.busy, h.acked, id, h.freeReport, h.cur⟩⟩
  | cwLoop n =>
    simp only [roomLine, Room.when_eq_some, Bool.and_eq_true, beq_iff_eq] at hj
    obtain ⟨⟨hs, ha⟩, rfl⟩ := hj
    exact ⟨_, Room.when_eq_some.mpr ⟨by simp [h.sel _ hs, h.acked ha], rfl⟩,
      ⟨h.ie, h.sel, h.busy, h.acked, id, h.freeReport, h.cur⟩⟩
  | syncCheck => cases hj; exact ⟨_, rfl, .refl _⟩
  | remapReport got => cases hj; exact ⟨_, rfl, .refl _⟩
  | sendEntry => cases hj; exact ⟨_, rfl, .refl _⟩
  | sendPoll =>
    simp only [roomLine, Room.when_eq_some, Bool.and_eq_true, beq_iff_eq, Bool.not_eq_true'] at hj
    obtain ⟨⟨hs, hi⟩, rfl⟩ := hj
    have hk : k.ie = false := by cases hki : k.ie; rfl; rw [h.ie hki] at hi; cases hi
    exact ⟨_, Room.when_eq_some.mpr ⟨by simp [h.sel _ hs, hk], rfl⟩, .refl _⟩
  | sendPollAgain =>
    simp only [roomLine, Room.when_eq_some, Bool.and_eq_true, beq_iff_eq, Bool.not_eq_true'] at hj
    obtain ⟨⟨hs, hi⟩, rfl⟩ := hj
    have hk : k.ie = false := by cases hki : k.ie; rfl; rw [h.ie hki] at hi; cases hi
    exact ⟨_, Room.when_eq_some.mpr ⟨by simp [h.sel _ hs, hk], rfl⟩, .refl _⟩
  | sendConfiguration => cases hj; exact ⟨_, rfl, .refl _⟩
  | sendExpired => cases hj; exact ⟨_, rfl, .refl _⟩
  | _ => cases hj; exact ⟨_, rfl, h⟩

/-- One line, with more known: it stays safe, and at least as much is known after it. -/
theorem roomAfter_mono {p : Params} {k k' j' : Room} {l : Line} (h : RoomLe k k') (hj : roomAfter p k' l = some j') :
    ∃ j, roomAfter p k l = some j ∧ RoomLe j j' := by
  unfold roomAfter at hj ⊢
  split at hj
  · cases hj
  · rename_i hcur'
    have hcur : ¬(!inBank l && k.cur != 0) = true := by
      intro hc
      apply hcur'
      simp only [Bool.and_eq_true, Bool.not_eq_true', bne_iff_ne, ne_eq] at hc ⊢
      have := h.cur
      exact ⟨hc.1, by omega⟩
    rw [if_neg hcur]
    split at hj
    · rename_i m' hm'
      obtain ⟨m, hm, hle⟩ := roomLine_mono h hm'
      rw [hm]
      dsimp only
      split at hj
      · rename_i hie'
        simp only [Room.when_eq_some, beq_iff_eq] at hj
        obtain ⟨hz, rfl⟩ := hj
        have hmz : m.cur = 0 := by have := hle.cur; omega
        by_cases hie : m.ie = true
        · rw [if_pos hie]
          exact ⟨_, Room.when_eq_some.mpr ⟨by simp [hmz], rfl⟩, .refl _⟩
        · rw [if_neg hie]
          exact ⟨m, rfl, .to_start hmz⟩
      · rename_i hie'
        have hie : ¬m.ie = true := fun hm => hie' (hle.ie hm)
        rw [if_neg hie]
        cases hj
        exact ⟨m, rfl, hle⟩
    · cases hj

/-- A position stays safe with more known. -/
theorem roomSafe_mono {p : Params} : ∀ {ls : List Line} {k k' : Room}, RoomLe k k' → roomSafe p k' ls = true →
    roomSafe p k ls = true
  | [], k, k', h, hs => by
    simp only [roomSafe, beq_iff_eq] at hs ⊢
    have := h.cur
    omega
  | l :: ls, k, k', h, hs => by
    simp only [roomSafe] at hs
    split at hs
    · rename_i j' hj'
      obtain ⟨j, hj, hle⟩ := roomAfter_mono h hj'
      simp only [roomSafe, hj]
      exact roomSafe_mono hle hs
    · cases hs

/-- A safe position: its first line is safe, and the rest is safe at what is known after it. -/
theorem roomSafe_cons {p : Params} {k : Room} {l : Line} {ls : List Line} :
    roomSafe p k (l :: ls) = true ↔ ∃ j, roomAfter p k l = some j ∧ roomSafe p j ls = true := by
  simp only [roomSafe]
  cases roomAfter p k l <;> simp

/-- Outside a write sequence every CUR is empty (R292). -/
theorem roomSafe_cur {p : Params} {k : Room} {ls : List Line} (h : roomSafe p k ls = true)
    (hl : ∀ l ∈ ls.head?, inBank l = false) : k.cur = 0 := by
  cases ls with
  | nil => simpa [roomSafe] using h
  | cons l ls =>
    obtain ⟨j, hj, _⟩ := roomSafe_cons.mp h
    have hb : inBank l = false := hl l rfl
    by_contra hc
    simp [roomAfter, hb, hc] at hj

/-- The report's write sequence is safe where WRAL of the selected report endpoint has been read as 1 with `I` = 0 (R292,
R293), and leaves CUR empty. -/
theorem roomSafe_commitReport {p : Params} {k : Room} (ls : List Line) (hi : k.ie = false)
    (hs : k.sel = some p.reportEp) (hf : k.freeReport = true) (hc : k.cur = 0) :
    roomSafe p k (commitReportCode ++ ls) = roomSafe p { k with freeReport := false } ls := by
  obtain ⟨ie, sel, busy, acked, free0, freeReport, cur⟩ := k
  dsimp only at hi hs hf hc
  subst hi hs hf hc
  have hrange : List.finRange 8 = [0, 1, 2, 3, 4, 5, 6, 7] := rfl
  simp [commitReportCode, writeReportCode, hrange, roomSafe, roomAfter, roomLine, inBank, Room.write, Room.when]

end Sys2Proof.Machine
end

