-- ==== Sys2Proof/Laws/Signal.lean ====
section
/-! SUPPORT. The button part of REMAP: what a decision tree and a button byte answer, and that the trees are every
function of the decoded bits, so that the parameter leaves no remap out (00_scope.md R8, 44_decoder.md R336). -/

namespace Sys2Proof.Machine

@[simp] theorem BitTree.eval_leaf (b : Bool) (c : List Byte) : BitTree.eval (.leaf b) c = b := rfl

@[simp] theorem BitTree.eval_node (byte bit : Fin 8) (ifClear ifSet : BitTree) (c : List Byte) :
    BitTree.eval (.node byte bit ifClear ifSet) c =
      if (c.getD byte.val 0).getLsbD bit.val then BitTree.eval ifSet c else BitTree.eval ifClear c := rfl

/-- The identity map of a bit. -/
theorem copyBit_eval (byte bit : Fin 8) (c : List Byte) :
    BitTree.eval (Config.copyBit byte bit) c = (c.getD byte.val 0).getLsbD bit.val := by
  simp [Config.copyBit]

/-- Bit `k` of a button byte is the value of tree `k`. -/
theorem buttonByte_getLsbD (trees : Vector BitTree 8) (c : List Byte) (k : Fin 8) :
    (buttonByte trees c).getLsbD k.val = BitTree.eval trees[k] c := by
  fin_cases k <;> simp [buttonByte, bitAt]

/-- A function of the decoded bits that depends on the listed ones alone is a decision tree. -/
theorem BitTree.complete_of (ps : List (Fin 8 × Fin 8)) : ∀ g : (Fin 8 → Fin 8 → Bool) → Bool,
    (∀ b b', (∀ p ∈ ps, b p.1 p.2 = b' p.1 p.2) → g b = g b') →
    ∃ t : BitTree, ∀ c : List Byte, BitTree.eval t c = g (fun i j => (c.getD i.val 0).getLsbD j.val) := by
  induction ps with
  | nil => exact fun g hg => ⟨.leaf (g fun _ _ => false), fun c => hg _ _ (by simp)⟩
  | cons p ps ih =>
    intro g hg
    have hsplit : ∀ v : Bool, ∃ t : BitTree, ∀ c : List Byte, BitTree.eval t c =
        g (fun i j => if (i, j) = p then v else (c.getD i.val 0).getLsbD j.val) := by
      intro v
      refine ih (fun b => g fun i j => if (i, j) = p then v else b i j) fun b b' h => hg _ _ ?_
      intro q hq
      by_cases hqp : (q.1, q.2) = p
      · simp only [hqp, if_true]
      · simp only [hqp, if_false]
        rcases List.mem_cons.mp hq with rfl | hq
        · exact absurd rfl hqp
        · exact h q hq
    obtain ⟨t0, h0⟩ := hsplit false
    obtain ⟨t1, h1⟩ := hsplit true
    refine ⟨.node p.1 p.2 t0 t1, fun c => ?_⟩
    have hsame : ∀ v, (c.getD p.1.val 0).getLsbD p.2.val = v →
        (fun i j => if (i, j) = p then v else (c.getD i.val 0).getLsbD j.val) =
          fun i j : Fin 8 => (c.getD i.val 0).getLsbD j.val := by
      intro v hv
      funext i j
      by_cases hp : (i, j) = p
      · subst hp; simp only [if_true]; exact hv.symm
      · simp only [hp, if_false]
    cases hb : (c.getD p.1.val 0).getLsbD p.2.val
    · simp only [BitTree.eval_node, hb, Bool.false_eq_true, if_false, h0, hsame false hb]
    · simp only [BitTree.eval_node, hb, if_true, h1, hsame true hb]

/-- Every function of the 64 decoded bits is a decision tree. -/
theorem BitTree.complete (g : (Fin 8 → Fin 8 → Bool) → Bool) :
    ∃ t : BitTree, ∀ c : List Byte, BitTree.eval t c = g (fun i j => (c.getD i.val 0).getLsbD j.val) := by
  refine BitTree.complete_of ((List.finRange 8).flatMap fun i => (List.finRange 8).map fun j => (i, j)) g ?_
  intro b b' h
  congr 1
  funext i j
  exact h (i, j) (by simp)

end Sys2Proof.Machine
end

