-- ==== Sys2Proof/Laws/Step.lean ====
section
/-! SUPPORT. What a step can do: the CPU's own step, an operation the schedule has due, or a refusal of bytes. -/

namespace Sys2Proof.Machine

/-- The entry is due: its CPU steps are counted down, or it waits for a quiescent point and the state is one (R413). -/
def ScriptEntry.due (entry : ScriptEntry) (s : State) : Prop :=
  entry.wait = .steps 0 ∨ (entry.wait = .quiescent ∧ s.quiescent = true)

/-- What is due, with its bytes and its context looked at. -/
theorem fetchDue_cases {entry : ScriptEntry} {entries : List ScriptEntry} {s : State} :
    (∃ e, decodeBytes entry.format entry.bytes = .error e ∧
      fetchDue entry entries s = .bad entry.format entry.bytes) ∨
    (∃ i tail, decodeBytes entry.format entry.bytes = .ok (i, tail) ∧ runsNow i s = false ∧
      fetchDue entry entries s = .cpu s) ∨
    (∃ i tail, decodeBytes entry.format entry.bytes = .ok (i, tail) ∧ runsNow i s = true ∧
      fetchDue entry entries s = .operation i { s with script := entries }) := by
  cases hd : decodeBytes entry.format entry.bytes with
  | error e => exact .inl ⟨e, rfl, by simp only [fetchDue, hd]⟩
  | ok p =>
    obtain ⟨i, tail⟩ := p
    cases hr : runsNow i s
    · exact .inr (.inl ⟨i, tail, rfl, hr, by simp [fetchDue, hd, hr]⟩)
    · exact .inr (.inr ⟨i, tail, rfl, hr, by simp [fetchDue, hd, hr]⟩)

/-- What a step reads: nothing, an entry that still waits, or one that is due. -/
theorem fetch_cases (s : State) :
    (fetch s = .cpu s) ∨
    (∃ entry entries n, s.script = entry :: entries ∧ entry.wait = .steps (n + 1) ∧
      fetch s = .cpu { s with script := { entry with wait := .steps n } :: entries }) ∨
    (∃ entry entries, s.script = entry :: entries ∧ entry.due s ∧ fetch s = fetchDue entry entries s) := by
  cases hs : s.script with
  | nil => exact .inl (by simp only [fetch, hs])
  | cons entry entries =>
    obtain ⟨wait, format, bytes⟩ := entry
    cases wait with
    | steps n =>
      cases n with
      | zero => exact .inr (.inr ⟨_, entries, rfl, .inl rfl, by simp only [fetch, hs]⟩)
      | succ n => exact .inr (.inl ⟨_, entries, n, rfl, rfl, by simp only [fetch, hs]⟩)
    | quiescent =>
      cases hq : s.quiescent
      · exact .inl (by simp [fetch, hs, hq])
      · exact .inr (.inr ⟨_, entries, rfl, .inr ⟨rfl, hq⟩, by simp [fetch, hs, hq]⟩)

/-- One step (00_scope.md R5; log 3): the CPU's own step, with the schedule as it was or with one wait counted down, or
the operation that is due, with its entry taken off. -/
theorem step_cases {s t : State} (h : step s = .next t) :
    (t = cpuStep s) ∨
    (∃ entry entries n, s.script = entry :: entries ∧ entry.wait = .steps (n + 1) ∧
      t = cpuStep { s with script := { entry with wait := .steps n } :: entries }) ∨
    (∃ entry entries i tail, s.script = entry :: entries ∧ entry.due s ∧
      decodeBytes entry.format entry.bytes = .ok (i, tail) ∧ runsNow i s = true ∧
      exec i { s with script := entries } = .next t) := by
  rcases fetch_cases s with hf | ⟨entry, entries, n, hs, hw, hf⟩ | ⟨entry, entries, hs, hw, hf⟩
  · simp only [step, hf] at h
    exact .inl (Host.Outcome.next.inj h).symm
  · simp only [step, hf] at h
    exact .inr (.inl ⟨entry, entries, n, hs, hw, (Host.Outcome.next.inj h).symm⟩)
  · rcases fetchDue_cases (entry := entry) (entries := entries) (s := s) with
      ⟨e, _, hd⟩ | ⟨i, tail, _, _, hd⟩ | ⟨i, tail, hb, hr, hd⟩ <;> simp only [step, hf, hd] at h
    · cases h
    · exact .inl (Host.Outcome.next.inj h).symm
    · exact .inr (.inr ⟨entry, entries, i, tail, hs, hw, hb, hr, h⟩)

/-- A quiescent point ends `cpu RUN` where it stands (70_reset_and_hazards.md R413). -/
theorem cpuRun_quiescent {s : State} (h : s.quiescent = true) : ∀ n, cpuRun n s = some s
  | 0 => by simp [cpuRun, h]
  | _ + 1 => by simp [cpuRun, h]

/-- Elsewhere `cpu RUN` takes one CPU step and goes on. -/
theorem cpuRun_step {s : State} (h : s.quiescent = false) (n : Nat) : cpuRun (n + 1) s = cpuRun n (cpuStep s) := by
  simp [cpuRun, h]

/-- `cpu RUN` ends at a quiescent point only. -/
theorem cpuRun_ends : ∀ {n : Nat} {s t : State}, cpuRun n s = some t → t.quiescent = true
  | 0, s, t, h => by
    cases hq : s.quiescent <;> simp [cpuRun, hq] at h
    exact h ▸ hq
  | n + 1, s, t, h => by
    cases hq : s.quiescent
    · exact cpuRun_ends (cpuRun_step hq n ▸ h)
    · rw [cpuRun_quiescent hq] at h
      exact Option.some.inj h ▸ hq

end Sys2Proof.Machine
end

