-- ==== Sys2Proof/Tests/Slice0.lean ====
section
/-! SUPPORT. Tests of the model, each with the vector or rule its expected result comes from, and the witnesses: for
every statement with hypotheses, concrete states and operands that meet them. -/

namespace Sys2Proof.Tests

set_option Elab.async false

open Sys2Proof Sys2Proof.Machine

/-! ## Ill-formed terms are refused -/

def args0 : SetupArgs := { wValue := 0, wIndex := 0, wLength := 0 }

def reqOf (b0 b1 : Byte) : UsbRequest := { b0, b1, b2 := 0, b3 := 0, b4 := 0, b5 := 0, b6 := 0, b7 := 0 }

theorem smoke_getReport_recipient : (Instr.getReport 2 args0).wf = false := by decide
theorem smoke_fatal_set_address : (Instr.fatalUnhandled (reqOf 0x1F 0x05)).wf = false := by decide
theorem smoke_fatal_set_configuration : (Instr.fatalUnhandled (reqOf 0x00 0x09)).wf = false := by decide
theorem smoke_fatal_clear_feature : (Instr.fatalUnhandled (reqOf 0xA2 0x01)).wf = false := by decide
theorem smoke_fatal_set_idle : (Instr.fatalUnhandled (reqOf 0x21 0x0A)).wf = false := by decide
theorem smoke_fatal_get_descriptor : (Instr.fatalUnhandled (reqOf 0x81 0x06)).wf = false := by decide
theorem smoke_fatal_get_report : (Instr.fatalUnhandled (reqOf 0xA1 0x01)).wf = false := by decide
theorem smoke_ctrlFifoWrite_src : (Instr.ctrlFifoWrite (List.replicate 256 0) 0).wf = false := by decide +kernel
theorem smoke_ctrlFifoWrite_len : (Instr.ctrlFifoWrite [1, 2] 3).wf = false := by decide
theorem smoke_reportUpdate : (Instr.reportUpdate [1, 2, 3, 4, 5, 6, 7]).wf = false := by decide
theorem smoke_pollCycle : (Instr.pollCycle (List.replicate 33 0)).wf = false := by decide
theorem smoke_remap : (Instr.remap []).wf = false := by decide
theorem smoke_decodeGroup_raw : (Instr.decodeGroup (List.replicate 31 0) 0).wf = false := by decide
theorem smoke_decodeGroup_index : (Instr.decodeGroup (List.replicate 32 0) 8).wf = false := by decide
theorem smoke_epConfigure :
    (Instr.epConfigure { Config.exampleReportConfig with size := 65536 }).wf = false := by decide
theorem smoke_hSetup : (Instr.hSetup 0 [1, 2, 3, 4, 5, 6, 7]).wf = false := by decide
theorem smoke_hOut : (Instr.hOut 0 0 (List.replicate 65536 0)).wf = false := by
  simp only [Instr.wf, List.length_replicate]; decide

/-! ## Decoding: one word written out from the encoding tables for each constructor (R110 to R116, R125) -/

theorem decode_setAddress : decodeBytes .setup [0x01, 0x05, 0x85, 0x00, 0, 0, 0, 0] =
    .ok (.setAddress 1 { wValue := 0x0085, wIndex := 0, wLength := 0 }, []) := by decide
theorem decode_setConfiguration : decodeBytes .setup [0x02, 0x09, 0x01, 0x03, 0, 0, 0, 0] =
    .ok (.setConfiguration 2 { wValue := 0x0301, wIndex := 0, wLength := 0 }, []) := by decide
theorem decode_clearFeature : decodeBytes .setup [0x22, 0x01, 0x00, 0x00, 0x03, 0x01, 0, 0] =
    .ok (.clearFeature false true { wValue := 0, wIndex := 0x0103, wLength := 0 }, []) := by decide
theorem decode_clearFeature_overlap : decodeBytes .setup [0xA2, 0x01, 0x00, 0x00, 0x83, 0x00, 0, 0] =
    .ok (.clearFeature true true { wValue := 0, wIndex := 0x0083, wLength := 0 }, []) := by decide
theorem decode_setIdle : decodeBytes .setup [0x21, 0x0A, 0x05, 0x7D, 0x01, 0, 0, 0] =
    .ok (.setIdle 1 { wValue := 0x7D05, wIndex := 1, wLength := 0 }, []) := by decide
theorem decode_getDescriptor : decodeBytes .setup [0x81, 0x06, 0x00, 0x22, 0, 0, 0xFF, 0x01] =
    .ok (.getDescriptor 1 { wValue := 0x2200, wIndex := 0, wLength := 0x01FF }, []) := by decide
theorem decode_getReport : decodeBytes .setup [0xA1, 0x01, 0x00, 0x01, 0, 0, 8, 0] =
    .ok (.getReport 1 { wValue := 0x0100, wIndex := 0, wLength := 8 }, []) := by decide
theorem decode_fatal_vendor : decodeBytes .setup [0x42, 0x01, 1, 2, 3, 4, 5, 6] =
    .ok (.fatalUnhandled { b0 := 0x42, b1 := 1, b2 := 1, b3 := 2, b4 := 3, b5 := 4, b6 := 5, b7 := 6 }, []) := by decide
theorem decode_fatal_device_recipient : decodeBytes .setup [0x00, 0x01, 0, 0, 0, 0, 0, 0] =
    .ok (.fatalUnhandled (reqOf 0x00 0x01), []) := by decide
theorem decode_devIsr : decodeBytes .code [0x01] = .ok (.devIsr, []) := by decide
theorem decode_epIsr : decodeBytes .code [0x02] = .ok (.epIsr, []) := by decide
theorem decode_eorstHandler : decodeBytes .code [0x03] = .ok (.eorstHandler, []) := by decide
theorem decode_autoTick : decodeBytes .code [0x04] = .ok (.autoTick, []) := by decide
theorem decode_autoWrite : decodeBytes .code [0x05] = .ok (.autoWrite, []) := by decide
theorem decode_setupIntake : decodeBytes .code [0x06] = .ok (.setupIntake, []) := by decide
theorem decode_descSearch : decodeBytes .code [0x07, 0x00, 0x22, 0x01, 0x04] =
    .ok (.descSearch 0x2200 0x0401, []) := by decide
theorem decode_ctrlFifoWrite : decodeBytes .code [0x08, 3, 2, 0xAA, 0xBB, 0xCC] =
    .ok (.ctrlFifoWrite [0xAA, 0xBB, 0xCC] 2, []) := by decide
theorem decode_send : decodeBytes .code [0x10] = .ok (.send, []) := by decide
theorem decode_reportUpdate : decodeBytes .code [0x11, 1, 2, 3, 4, 5, 6, 7, 8] =
    .ok (.reportUpdate [1, 2, 3, 4, 5, 6, 7, 8], []) := by decide
theorem decode_decode : decodeBytes .code [0x12] = .ok (.decode, []) := by decide
theorem decode_syncCheck : decodeBytes .code [0x13] = .ok (.syncCheck, []) := by decide
theorem decode_pollCycle : decodeBytes .code (0x14 :: 0x11 :: List.replicate 31 0x77) =
    .ok (.pollCycle (0x11 :: List.replicate 31 0x77), []) := by decide
theorem decode_remap : decodeBytes .code [0x15, 1, 2, 3, 4, 5, 6, 7, 8] =
    .ok (.remap [1, 2, 3, 4, 5, 6, 7, 8], []) := by decide
theorem decode_vote : decodeBytes .code [0x16, 0x0D] = .ok (.vote 0xD, []) := by decide
theorem decode_decodeRawByte : decodeBytes .code [0x17, 0x71] = .ok (.decodeRawByte 0x71, []) := by decide
theorem decode_decodeGroup : decodeBytes .code (0x18 :: 7 :: List.replicate 32 0x11) =
    .ok (.decodeGroup (List.replicate 32 0x11) 7, []) := by decide
theorem decode_select : decodeBytes .code [0x20, 4] = .ok (.select 4, []) := by decide
theorem decode_readStatus : decodeBytes .code [0x21] = .ok (.readStatus, []) := by decide
theorem decode_ackSetup : decodeBytes .code [0x22] = .ok (.ackSetup, []) := by decide
theorem decode_commit : decodeBytes .code [0x23] = .ok (.commit, []) := by decide
theorem decode_commitClr : decodeBytes .code [0x24] = .ok (.commitClr, []) := by decide
theorem decode_fifoRead : decodeBytes .code [0x25] = .ok (.fifoRead, []) := by decide
theorem decode_fifoWrite : decodeBytes .code [0x26, 0x80] = .ok (.fifoWrite 0x80, []) := by decide
theorem decode_stall : decodeBytes .code [0x27] = .ok (.stall, []) := by decide
theorem decode_epReset : decodeBytes .code [0x28] = .ok (.epReset, []) := by decide
theorem decode_epConfigure : decodeBytes .code [0x29, 1, 3, 0, 0, 8, 0, 1] =
    .ok (.epConfigure Config.exampleReportConfig, []) := by decide
theorem decode_ep0Init : decodeBytes .code [0x2A] = .ok (.ep0Init, []) := by decide
theorem decode_setDevaddr : decodeBytes .code [0x2B, 0x7F] = .ok (.setDevaddr 0x7F, []) := by decide
theorem decode_readFrame : decodeBytes .code [0x2C] = .ok (.readFrame, []) := by decide
theorem decode_readDevint : decodeBytes .code [0x2D] = .ok (.readDevint, []) := by decide
theorem decode_clearDevint : decodeBytes .code [0x2E] = .ok (.clearDevint, []) := by decide
theorem decode_armSetupIrq : decodeBytes .code [0x2F] = .ok (.armSetupIrq, []) := by decide
theorem decode_hBusReset : decodeBytes .code [0x40] = .ok (.hBusReset, []) := by decide
theorem decode_hSof : decodeBytes .code [0x41] = .ok (.hSof, []) := by decide
theorem decode_hSetup : decodeBytes .code [0x42, 5, 0x00, 0x09, 1, 0, 0, 0, 0, 0] =
    .ok (.hSetup 5 [0x00, 0x09, 1, 0, 0, 0, 0, 0], []) := by decide
theorem decode_hIn : decodeBytes .code [0x43, 5, 3] = .ok (.hIn 5 3, []) := by decide
theorem decode_hOut : decodeBytes .code [0x44, 5, 0, 2, 0, 0xAA, 0xBB] = .ok (.hOut 5 0 [0xAA, 0xBB], []) := by decide
theorem decode_hDeveventOther : decodeBytes .code [0x45] = .ok (.hDeveventOther, []) := by decide
theorem decode_unused_code : decodeBytes .code [0x09] = .error (.unusedCode 0x09) := by decide
theorem decode_short_packet : decodeBytes .setup [0x00, 0x05, 5] = .error .truncated := by decide
theorem decode_bad_endpoint : decodeBytes .code [0x20, 5] = .error .badOperand := by decide

/-! ## Small states -/

/-- After BOOT (R412): attached, `I` = 1, MAIN at the start of its loop. -/
def booted : State := { State.reset with eorste := true, sofe := true, attached := true, ie := true, mainPc := [] }

/-- After a bus reset and its handler (R53): the enumeration state ADDRESSED. -/
def addressed : State := booted.modEp 0 fun x => { x.initControl with rxstpe := true }

/-- The configured start of 95_test_vectors.md section 0. -/
def configured : State :=
  { addressed.modEp 3 (Endpoint.configure Config.exampleReportConfig) with
    usbConfiguration := 1, devAddr := 5, adden := true, epSel := 3 }

/-- Configured, with a report the host has not taken. -/
def pendingReport : State := configured.modEp 3 fun x => { x with committed := [[9]] }

/-- EP_ISR about to dispatch, EP_SEL at endpoint 0. -/
def dispatching : State :=
  { configured with ctx := .epIsr, ie := false, epSel := 0, ce := { configured.ce with phase := .dispatch } }

/-- Configured, with an unread SET_IDLE packet (SI3). -/
def setupPending : State :=
  configured.modEp 0 (Endpoint.takeSetup [0x21, 0x0A, 0x05, 0x7D, 0x01, 0, 0, 0])

/-- Halted by an unhandled request (FT1). -/
def haltedState : State :=
  { configured with
    halted := true, ie := false, ctx := .epIsr, ce := { configured.ce with phase := .halted }
    fault := [.unhandledRequest (reqOf 0x80 0)] }

/-- SA1: addressed by nothing yet, with an unread SET_ADDRESS packet. -/
def addressPending : State :=
  addressed.modEp 0 (Endpoint.takeSetup [0x00, 0x05, 0x05, 0, 0, 0, 0, 0])

/-- SA1's end: EP_ISR holds in WAIT_ADDR with the status packet not taken. -/
def holdingAddress : State :=
  { addressed.modEp 0 (fun x => { x with committed := [[]] }) with
    ctx := .epIsr, ie := false, epSel := 0, isrPc := [.waitTxrdy, .setDevaddr 5, .setPhase .idle]
    ce := { addressed.ce with phase := .waitAddr } }

/-- The same after the host's IN. -/
def addressTaken : State := holdingAddress.modEp 0 fun x => { x with committed := [] }

/-- An operation of a code due after CPU steps. -/
def entryOf (wait : Nat) (bytes : List Byte) : ScriptEntry := { wait := .steps wait, format := .code, bytes }

/-- An operation behind a line `cpu RUN`. -/
def entryAfterRun (bytes : List Byte) : ScriptEntry := { wait := .quiescent, format := .code, bytes }

/-- A value read off the next state. -/
def after {α : Type} (o : Host.Outcome State Fault Refusal) (f : State → α) : Option α :=
  match o with
  | .next t => some (f t)
  | .fault _ => none
  | .refused _ => none

/-! ## Vectors of 95_test_vectors.md -/

-- SA1: the hold, the address unchanged
theorem test_setAddress_holds : after (exec (.setAddress 0 { args0 with wValue := 5 }) { dispatching with devAddr := 0, adden := false })
    (fun t => (t.ce.phase, (t.ep 0).committed, t.devAddr, t.adden)) = some (.waitAddr, [[]], 0, false) := by decide +kernel
-- SA2, SA3: after the host's IN, three steps; wValue bit 7 is ignored
theorem test_setAddress_taken :
    after (exec (.setAddress 0 { args0 with wValue := 0x85 }) { dispatching with devAddr := 0, adden := false })
      (fun t => after (exec (.hIn 0 0) t) fun u => after (runSteps 3 u) fun v => (v.devAddr, v.adden, v.ce.phase)) =
    some (some (some (5, true, .idle))) := by decide +kernel
-- SC1
theorem test_setConfiguration : after (exec (.setConfiguration 0 { args0 with wValue := 1 }) { addressed with ctx := .epIsr })
    (fun t => (t.usbConfiguration, (t.ep 0).committed, (t.ep 3).wral, (t.ep 3).type, t.epSel, (t.ep 4).en)) =
    some (1, [[]], true, .interrupt, 3, false) := by decide +kernel
-- SC4: the value is 2 and EP_RESET discards the report
theorem test_setConfiguration_discards :
    after (exec (.setConfiguration 0 { args0 with wValue := 2 }) { pendingReport with epSel := 0 })
      (fun t => (t.usbConfiguration, (t.ep 3).committed)) = some (2, []) := by decide +kernel
-- CF2: wIndex[15:8] and wIndex[7] are ignored
theorem test_clearFeature : after (exec (.clearFeature false false { args0 with wIndex := 0x0103 }) { pendingReport with epSel := 0 })
    (fun t => ((t.ep 3).committed, (t.ep 3).stallReq, (t.ep 0).committed, t.epSel)) = some ([], false, [[]], 0) := by decide +kernel
-- CF4: endpoint 5 stalls endpoint 0
theorem test_clearFeature_bad_endpoint : after (exec (.clearFeature false false { args0 with wIndex := 5 }) dispatching)
    (fun t => ((t.ep 0).stallReq, (t.ep 0).committed)) = some (true, []) := by decide +kernel
-- SI3
theorem test_setIdle : after (exec (.setIdle 1 { wValue := 0x7D05, wIndex := 1, wLength := 0 }) { dispatching with idleCounter := 9, sofDiv := 3 })
    (fun t => (t.idleRate, t.idleCounter, t.sofDiv, (t.ep 0).committed)) = some (125, 0, 3, [[]]) := by decide +kernel
-- GD3: wLength 8
theorem test_getDescriptor_short : after (exec (.getDescriptor 0 { wValue := 0x0100, wIndex := 0, wLength := 8 }) dispatching)
    (fun t => ((t.ep 0).committed, t.ce.phase)) = some ([[0, 1, 2, 3, 4, 5, 6, 7]], .idle) := by decide +kernel
-- GD11: the pair is compared whole
theorem test_getDescriptor_absent : after (exec (.getDescriptor 0 { wValue := 0x0100, wIndex := 1, wLength := 18 }) dispatching)
    (fun t => ((t.ep 0).stallReq, (t.ep 0).committed, t.diag)) = some (true, [], [.noDescriptor]) := by decide +kernel
-- GR2: wLength 1 is ignored
theorem test_getReport : after (exec (.getReport 1 { wValue := 0x0100, wIndex := 0, wLength := 1 }) dispatching)
    (fun t => ((t.ep 0).committed, t.ce.phase)) = some ([[0, 0, 0, 0, 0, 0, 0x80, 0x80]], .idle) := by decide +kernel
-- FT1
theorem test_fatal : after (exec (.fatalUnhandled (reqOf 0x80 0)) dispatching)
    (fun t => (t.halted, t.ie, t.ce.phase, t.fault.length, (t.ep 0).stallReq)) = some (true, false, .halted, 1, false) := by decide +kernel
-- P2: the fourth SOF is an idle tick
theorem test_devIsr : after (exec .devIsr { configured with sof := true, idleRate := 2, sofDiv := 3 })
    (fun t => (t.sof, t.sofDiv, t.idleCounter, t.ctx, t.ie)) = some (false, 0, 1, .main, true) := by decide +kernel
-- SI3 through EP_ISR
theorem test_epIsr : after (exec .epIsr setupPending)
    (fun t => (t.idleRate, (t.ep 0).rxstp, (t.ep 0).committed, t.ctx, t.epSel)) = some (125, false, [[]], .main, 0) := by decide +kernel
-- R202
theorem test_eorstHandler : after (exec .eorstHandler configured)
    (fun t => (t.usbConfiguration, (t.ep 0).size, (t.ep 0).rxstpe, t.epSel)) = some (0, 32, true, 0) := by decide +kernel
-- AT5: the tick that writes
theorem test_autoTick_writes : after (exec .autoTick { configured with idleRate := 2, sofDiv := 3, idleCounter := 1 })
    (fun t => (t.sofDiv, t.idleCounter, (t.ep 3).committed)) = some (0, 0, [[0, 0, 0, 0, 0, 0, 0x80, 0x80]]) := by decide +kernel
-- AT8
theorem test_autoTick_divides : after (exec .autoTick { configured with idleRate := 125, sofDiv := 2, idleCounter := 60 })
    (fun t => (t.sofDiv, t.idleCounter, (t.ep 3).committed)) = some (3, 60, []) := by decide +kernel
-- AW2: a report the host has not taken
theorem test_autoWrite_full : after (exec .autoWrite pendingReport) (fun t => (t.ep 3).committed) = some [[9]] := by decide +kernel
-- AW4: STALL_REQ does not block the write
theorem test_autoWrite_stalled : after (exec .autoWrite (configured.modEp 3 fun x => { x with stallReq := true }))
    (fun t => (t.ep 3).committed.length) = some 1 := by decide +kernel
-- IN2
theorem test_setupIntake : after (exec .setupIntake
      { (configured.modEp 0 (Endpoint.takeSetup [0, 5, 5, 0, 1, 2, 3, 4])) with epSel := 0 })
    (fun t => (t.req, (t.ep 0).rxstp, (t.ep 0).outbuf)) =
    some ({ b0 := 0, b1 := 5, b2 := 5, b3 := 0, b4 := 1, b5 := 2, b6 := 3, b7 := 4 }, false, []) := by decide +kernel
-- R238 with the example DESC_TABLE
theorem test_descSearch : after (exec (.descSearch 0x2200 0) configured) (fun t => t.ret) = some (.entry (some 2)) := by decide +kernel
-- Bank split of len 33: [32, 1], the first bank
theorem test_ctrlFifoWrite : after (exec (.ctrlFifoWrite (Config.counting 0 33) 33) dispatching)
    (fun t => ((t.ep 0).committed.map List.length, t.ce.rem, t.isrPc)) = some ([32], 1, [.cwWait]) := by decide +kernel
-- SND2 and SND4
theorem test_send : after (exec .send { configured with idleRate := 2, idleCounter := 1 })
    (fun t => (t.ret, (t.ep 3).committed, t.idleCounter, t.ie)) =
    some (.sent 0, [[0, 0, 0, 0, 0, 0, 0x80, 0x80]], 0, true) := by decide +kernel
-- SND1
theorem test_send_not_configured : after (exec .send { addressed with idleCounter := 3 })
    (fun t => (t.ret, t.ie, t.idleCounter)) = some (.sent 1, true, 3) := by decide +kernel
-- P2: the explicit report
theorem test_reportUpdate : after (exec (.reportUpdate [1, 0, 0, 0, 0, 0, 0x80, 0x80]) configured)
    (fun t => (t.reportBytes, t.ie)) = some ([1, 0, 0, 0, 0, 0, 0x80, 0x80], true) := by decide +kernel

/-- The first buffer of program P3. -/
def rawP3 : List Byte :=
  [0x11, 0x11, 0x11, 0x11, 0x77, 0x77, 0x77, 0x77, 0x11, 0x11, 0x11, 0x11, 0x11, 0x77, 0x11, 0x77,
   0x11, 0x11, 0x11, 0x11, 0x11, 0x11, 0x11, 0x11, 0x77, 0x77, 0x77, 0x77, 0x77, 0x77, 0x77, 0x77]

-- P3 step 1: CState = 00 FF 00 33 00 00 FF FF
theorem test_decode : after (exec .decode { configured with raw := memOfBytes rawP3 }) (fun t => t.cstateBytes) =
    some [0, 0xFF, 0, 0x33, 0, 0, 0xFF, 0xFF] := by decide +kernel
-- S10: SYNC_OK exactly when Raw[0] = 0x11
theorem test_syncCheck : after (exec .syncCheck { configured with raw := memOfBytes rawP3 }) (fun t => t.ret) =
    some (.flag true) := by decide +kernel
-- P3 step 1: the remapped report sent
theorem test_pollCycle_sends : after (exec (.pollCycle rawP3) configured)
    (fun t => (t.ext, t.cstateBytes, (t.ep 3).committed, t.ret)) =
    some ([.poll], [0, 0xFF, 0, 0x33, 0, 0, 0xFF, 0xFF], [[0, 0xFF, 0, 0x4C, 0, 0, 0xFF, 0xFF]], .sent 0) := by
  decide +kernel
-- P3 step 3: SKIPPED
theorem test_pollCycle_skips : after (exec (.pollCycle (0x10 :: List.replicate 31 0x77)) configured)
    (fun t => (t.ext, t.ret, t.cstate.length, (t.ep 3).committed)) = some ([.poll, .probe], .skipped, 0, []) := by decide +kernel
-- S7: joy_y 0 gives 127, 127 gives 0
theorem test_remap_zero : after (exec (.remap [1, 2, 3, 0, 5, 6, 7, 8]) configured)
    (fun t => match t.ret with | .report r => r.getD 3 0 | _ => 1) = some 127 := by decide +kernel
theorem test_remap_limit : after (exec (.remap [1, 2, 3, 127, 5, 6, 7, 8]) configured)
    (fun t => match t.ret with | .report r => r.getD 3 1 | _ => 1) = some 0 := by decide +kernel
-- S5: a popcount of exactly 2 decodes to 0, 3 to 1
theorem test_vote_tie : after (exec (.vote 0x5) configured) (fun t => t.ret) = some (.flag false) := by decide +kernel
theorem test_vote_three : after (exec (.vote 0xB) configured) (fun t => t.ret) = some (.flag true) := by decide +kernel
-- R331: high nibble first
theorem test_decodeRawByte : after (exec (.decodeRawByte 0x71) configured) (fun t => t.ret) = some (.bits true false) := by decide +kernel
-- P3: bytes 12 to 15 are 11 77 11 77, group 3 is 0x33
theorem test_decodeGroup : after (exec (.decodeGroup rawP3 3) configured) (fun t => t.ret) = some (.byte 0x33) := by decide +kernel
theorem test_decodeGroup_outside : exec (.decodeGroup rawP3 8) configured = .fault (.addressOutsideSpace 32) := rfl
-- R150 to R165
theorem test_select : after (exec (.select 4) configured) (fun t => t.epSel) = some 4 := by decide +kernel
theorem test_readStatus : after (exec .readStatus pendingReport) (fun t => t.ret) =
    some (.status { rxstp := false, rxout := false, txrdy := false, wral := false, nakin := false, stalled := false }) := by decide +kernel
theorem test_ackSetup : after (exec .ackSetup (setupPending.modEp 0 fun x => { x with rxout := true }))
    (fun t => ((t.ep 0).rxstp, (t.ep 0).rxout)) = some (false, false) := by decide +kernel
theorem test_commit : after (exec .commit (configured.modEp 3 fun x => { x with cur := [7] }))
    (fun t => ((t.ep 3).committed, (t.ep 3).cur)) = some ([[7]], []) := by decide +kernel
theorem test_commit_misuse : after (exec .commit pendingReport) (fun t => (t.fault, t.halted, (t.ep 3).committed)) =
    some ([.portMisuse .commit 3], true, [[9]]) := by decide +kernel
theorem test_commitClr : after (exec .commitClr (configured.modEp 3 fun x => { x with nakin := true }))
    (fun t => ((t.ep 3).committed, (t.ep 3).nakin)) = some ([[]], false) := by decide +kernel
theorem test_fifoRead : after (exec .fifoRead { setupPending with epSel := 0 })
    (fun t => (t.ret, (t.ep 0).outbuf.length)) = some (.byte 0x21, 7) := by decide +kernel
theorem test_fifoWrite : after (exec (.fifoWrite 6) (configured.modEp 3 fun x => { x with cur := [5] }))
    (fun t => (t.ep 3).cur) = some [5, 6] := by decide +kernel
theorem test_fifoWrite_disabled : after (exec (.fifoWrite 6) { configured with epSel := 2 })
    (fun t => ((t.ep 2).cur, t.halted)) = some ([], false) := by decide +kernel
theorem test_stall : after (exec .stall configured) (fun t => ((t.ep 3).stallReq, (t.ep 0).stallReq)) =
    some (true, false) := by decide +kernel
theorem test_epReset : after (exec .epReset pendingReport) (fun t => ((t.ep 3).committed, (t.ep 3).en, (t.ep 3).size)) =
    some ([], true, 8) := by decide +kernel
theorem test_epConfigure : after (exec (.epConfigure Config.exampleReportConfig) { addressed with epSel := 1 })
    (fun t => ((t.ep 1).en, (t.ep 1).dir, (t.ep 1).size)) = some (true, .dirIn, 8) := by decide +kernel
theorem test_ep0Init : after (exec .ep0Init booted) (fun t => ((t.ep 0).en, (t.ep 0).type, (t.ep 0).size)) =
    some (true, .control, 32) := by decide +kernel
theorem test_setDevaddr : after (exec (.setDevaddr 9) booted) (fun t => (t.devAddr, t.adden)) = some (9, true) := by decide +kernel
theorem test_readFrame : after (exec .readFrame { booted with frame := 2047 }) (fun t => t.ret) =
    some (.frame 2047) := by decide +kernel
theorem test_readDevint : after (exec .readDevint { booted with sof := true }) (fun t => (t.ret, t.sof)) =
    some (.events { eorst := false, sof := true, other := false }, true) := by decide +kernel
theorem test_clearDevint : after (exec .clearDevint { booted with sof := true, eorst := true, other := true })
    (fun t => (t.eorst, t.sof, t.other)) = some (false, false, false) := by decide +kernel
theorem test_armSetupIrq : after (exec .armSetupIrq booted) (fun t => (t.ep 0).rxstpe) = some true := by decide +kernel
-- R171 to R176; P4, SND5 (the frame wraps), SA5, FT2, GD10
theorem test_hBusReset : after (exec .hBusReset pendingReport)
    (fun t => ((t.ep 0).en, (t.ep 3).committed, t.devAddr, t.eorst, t.usbConfiguration)) = some (false, [], 0, true, 1) := by decide +kernel
theorem test_hSof : after (exec .hSof { configured with frame := 2047 }) (fun t => (t.frame, t.sof)) =
    some (0, true) := by decide +kernel
theorem test_hSetup : after (exec (.hSetup 5 [0, 5, 5, 0, 0, 0, 0, 0]) (configured.modEp 0 fun x => { x with stallReq := true }))
    (fun t => ((t.ep 0).rxstp, (t.ep 0).outbuf, (t.ep 0).stallReq, t.hostRx)) =
    some (true, [0, 5, 5, 0, 0, 0, 0, 0], false, [(0, .ack)]) := by decide +kernel
theorem test_hIn : after (exec (.hIn 5 3) pendingReport) (fun t => (t.hostRx, (t.ep 3).committed)) =
    some ([(3, .data [9])], []) := by decide +kernel
theorem test_hIn_other_address : after (exec (.hIn 0 3) pendingReport) (fun t => (t.hostRx, (t.ep 3).committed)) =
    some ([(3, .noAnswer)], [[9]]) := by decide +kernel
theorem test_hOut : after (exec (.hOut 5 0 []) configured) (fun t => (t.hostRx, (t.ep 0).rxout)) =
    some ([(0, .ack)], true) := by decide +kernel
theorem test_hDeveventOther : after (exec .hDeveventOther configured) (fun t => (t.other, t.eorst)) =
    some (true, false) := by decide +kernel
-- R412: BOOT's four steps from reset
theorem test_boot : after (runSteps 4 State.reset) (fun t => (t.attached, t.eorste, t.sofe, t.othere, t.ie, t.mainPc.length)) =
    some (true, true, true, false, true, 0) := by decide +kernel
-- R126
theorem test_sendResult_code : [SendResult.ok, .notConfigured, .timeout].map SendResult.code = [0, 1, 2] := by decide
-- R6, R290: the read, the write and the test of idle_counter are steps of their own; AT5
theorem test_tick_steps :
    [1, 2, 3, 4, 5].map (fun n =>
      after (runSteps n { configured with ctx := .devIsr, ie := false, isrPc := [.tickCount], idleRate := 2, idleCounter := 1 })
        fun t => (t.idleCounter, t.isrPc.length)) =
    [some (1, 2), some (2, 1), some (2, 1), some (2, 3), some (0, 2)] := by decide +kernel
-- R6: the read of a report byte and its FIFO_WRITE are two steps
theorem test_report_steps :
    [1, 2].map (fun n =>
      after (runSteps n { configured with ctx := .devIsr, ie := false, isrPc := [.readReport 6] }) fun t => (t.ep 3).cur) =
    [some [], some [0x80]] := by decide +kernel
-- R370, R380: the codes of the two faults, from the trace
theorem test_fault_codes :
    haltedState.fault.map FaultRecord.code = [1] ∧
    after (exec .commit pendingReport) (fun t => t.fault.map FaultRecord.code) = some [2] := by decide +kernel
-- R175 after the halt (log 31): the first OUT is ACKed, a later one NAKed
theorem test_hOut_halted :
    after (exec (.hOut 5 0 [7]) haltedState) (fun t => after (exec (.hOut 5 0 [8]) t) fun u =>
      (u.hostRx, (u.ep 0).outbuf, u.halted)) = some (some ([(0, .ack), (0, .nak)], [7], true)) := by decide +kernel
-- R413: (a) the configured start, (b) SA1's hold, (c) the halt; and not with an interrupt pending, inside a poll cycle,
-- or with the wait condition true
theorem test_quiescent :
    [configured, holdingAddress, haltedState].map State.quiescent = [true, true, true] ∧
    [setupPending, { configured with mainPc := sendCode }, addressTaken].map State.quiescent = [false, false, false] := by
  decide +kernel
-- SA1 by `cpu RUN` from EP_ISR's entry, SA2's `cpu RUN` after the host's IN
theorem test_cpuRun :
    ((cpuRun 100 (interruptEntry .epIsr addressPending)).map fun t =>
      (t.ce.phase, (t.ep 0).committed, (t.ep 0).txrdy, t.devAddr, t.adden)) = some (.waitAddr, [[]], false, 0, false) ∧
    ((cpuRun 100 addressTaken).map fun t => (t.ctx, t.ce.phase, t.devAddr, t.adden)) = some (.main, .idle, 5, true) ∧
    cpuRun 2 (interruptEntry .epIsr addressPending) = none := by decide +kernel
-- an entry behind `cpu RUN` runs at the hold, and not before it
theorem test_entry_after_run :
    after (step { holdingAddress with script := [entryAfterRun [0x43, 0, 0]] }) (fun t => (t.hostRx, t.script.length)) =
      some ([(0, .data [])], 0) ∧
    after (step { addressTaken with script := [entryAfterRun [0x41]] }) (fun t => (t.sof, t.script.length)) =
      some (false, 1) := by decide +kernel
-- a placed word is the next operation to run
theorem test_withFetchWord : after (step (State.reset.withFetchWord 8 0x2A)) (fun t => (t.ep 0).en) = some true := by decide +kernel
theorem test_reset_memory : State.reset.report.wf = true ∧ State.reset.raw.wf = true ∧ State.reset.cstate.wf = true := by decide +kernel

/-! ## Witnesses: concrete states and operands that meet the hypotheses of each statement, clause by clause -/

theorem witness_DecodeEncode : (Instr.ctrlFifoWrite (List.replicate 255 1) 255).wf = true ∧
    (Instr.getReport 3 args0).wf = true ∧ (Instr.fatalUnhandled (reqOf 0xFF 0xFF)).wf = true := by decide +kernel
theorem witness_EncodeDecode : decodeBytes .setup [0x1F, 0x05, 0, 0, 0, 0, 0, 0, 9] = .ok (.setAddress 31 args0, [9]) ∧
    decodeBytes .code [0x16, 0x0F, 9] = .ok (.vote 15, [9]) := by decide +kernel
theorem witness_DispatchRows :
    (⟨.clearFeature, 0x0102, 0xFF5F⟩ : RequestRow) ∈ dispatchTable.take 6 ∧
    (⟨.getReport, 0x01A0, 0xFFE0⟩ : RequestRow) ∈ dispatchTable.take 6 ∧
    (0x01A2 : Half) &&& 0xFF5F = 0x0102 ∧ (0x01A2 : Half) &&& 0xFFE0 = 0x01A0 ∧
    (0x01BF : Half) &&& 0xFFE0 = 0x01A0 ∧ (0x01BF : Half) ≠ 0x01A2 := by decide +kernel

theorem witness_StepRunsDecoded_due : (entryOf 0 [0x10]).wait = .steps 0 ∧
    (entryAfterRun [0x10]).wait = .quiescent ∧ { configured with script := [entryAfterRun [0x10]] }.quiescent = true ∧
    decodeBytes .code (entryOf 0 [0x10]).bytes = .ok (.send, []) ∧
    runsNow .send { configured with script := [entryOf 0 [0x10]] } = true := by decide +kernel
theorem witness_StepRunsDecoded_word : decodeTableWord 8 0x02 = some .epIsr ∧
    decodeTableWord 16 0x0500 = some (.setAddress 0 args0) := by decide +kernel
theorem witness_StepRunsDecoded_other :
    configured.script = [] ∧ (entryOf 1 [0x41]).wait = .steps (0 + 1) ∧
    { setupPending with script := [entryAfterRun [0x41]] }.quiescent = false ∧
    decodeBytes .code (entryOf 0 [0x04]).bytes = .ok (.autoTick, []) ∧ runsNow .autoTick configured = false ∧
    decodeBytes .code (entryOf 0 [0xFF]).bytes = .error (.unusedCode 0xFF) := by decide +kernel

/-- The hypothesis of the statements about the port primitives and the decoder. -/
theorem witness_running : configured.halted = false ∧ dispatching.halted = false ∧ dispatching.epSel = 0 := by decide +kernel
theorem witness_PortFifo : ((setupPending.ep 0).outbuf = 0x21 :: [0x0A, 0x05, 0x7D, 0x01, 0, 0, 0]) ∧
    (configured.ep configured.epSel).outbuf = [] := by decide +kernel
theorem witness_HostBusEvents : configured.attached = true ∧ haltedState.attached = true := by decide +kernel
theorem witness_HostSetup : configured.attached = true ∧ configured.ce.phase = .idle ∧ haltedState.ce.phase = .halted ∧
    (configured.ep 0).rxstp = false ∧ ([0, 5, 5, 0, 0, 0, 0, 0] : List Byte).length = 8 := by decide +kernel
theorem witness_HostInAndOut : configured.attached = true ∧
    (List.replicate 32 (1 : Byte)).length ≤ (configured.ep 0).size := by decide +kernel
theorem witness_StopsByName : isHostAction .hSof = true ∧ State.reset.attached = false ∧
    dispatching.attached = true ∧ dispatching.ce.phase ≠ .idle ∧ dispatching.ce.phase ≠ .halted ∧
    (setupPending.ep 0).rxstp = true ∧ ([1, 2, 3, 4, 5, 6, 7] : List Byte).length ≠ 8 ∧
    (configured.ep 0).en = true ∧ (configured.ep 0).size < (List.replicate 33 (1 : Byte)).length ∧
    rawP3.length < 4 * 8 + 4 := by decide +kernel
theorem witness_HostNeverWritesBlock : isHostAction .hBusReset = true ∧ ∃ t, exec .hBusReset configured = .next t :=
  ⟨rfl, _, rfl⟩
theorem witness_DecoderGroup : configured.halted = false ∧ rawP3.length = 32 ∧ 7 < 8 ∧ 3 < 4 := by decide +kernel

/-- The nibbles of the round trip witness: 1, 1, 1, 1, 0, 0, 0, 0 for the byte 0xF0, with popcounts 4, 3 and 2, 0. -/
def nibblesF0 (k : Fin 8) : BitVec 4 := if k.val < 2 then 0xF else if k.val < 4 then 0x7 else if k.val < 6 then 0x5 else 0

theorem witness_DecoderRoundTrip :
    (∀ k : Fin 8, (0xF0 : Byte).getLsbD (7 - k.val) = decide (2 < (List.range 4).countP (nibblesF0 k).getLsbD)) ∧
    ([0xFF, 0x77, 0x55, 0x00] ++ List.replicate 28 (0 : Byte)).length = 32 ∧
    (0xFF : Byte) = nibblesF0 0 ++ nibblesF0 1 ∧ (0x77 : Byte) = nibblesF0 2 ++ nibblesF0 3 ∧
    (0x55 : Byte) = nibblesF0 4 ++ nibblesF0 5 ∧ (0x00 : Byte) = nibblesF0 6 ++ nibblesF0 7 := by decide +kernel

theorem memoryWf_of (s : State) (h : s.report.wf = true ∧ s.raw.wf = true ∧ s.cstate.wf = true ∧
    (s.report.all fun c => decide (c.1 < 8)) = true ∧ (s.raw.all fun c => decide (c.1 < 32)) = true ∧
    (s.cstate.all fun c => decide (c.1 < 8)) = true) : s.memoryWf := by
  obtain ⟨h1, h2, h3, h4, h5, h6⟩ := h
  exact ⟨⟨h1, fun c hc => of_decide_eq_true (List.all_eq_true.mp h4 c hc)⟩,
    ⟨h2, fun c hc => of_decide_eq_true (List.all_eq_true.mp h5 c hc)⟩,
    ⟨h3, fun c hc => of_decide_eq_true (List.all_eq_true.mp h6 c hc)⟩⟩

/-- The hypotheses of DecoderDecode, ReportUpdate and MemoryWfKept. -/
theorem witness_memoryWf : State.memoryWf { configured with raw := memOfBytes rawP3 } ∧
    ∃ t, step { configured with raw := memOfBytes rawP3 } = .next t :=
  ⟨memoryWf_of _ (by decide +kernel), _, rfl⟩
theorem witness_DecoderRemap : ([1, 2, 3, 127, 5, 6, 7, 8] : List Byte).length = 8 ∧ configured.halted = false ∧
    2 ≤ 7 ∧ 7 < 8 ∧ 7 ≠ configured.params.joyYOut.val ∧ 1 < 2 ∧ 1 ≠ configured.params.joyYOut.val := by decide +kernel
theorem witness_ReportUpdate : configured.halted = false ∧ ([1, 2, 3, 4, 5, 6, 7, 8] : List Byte).length = 8 := by
  decide +kernel
theorem witness_Send : addressed.usbConfiguration = 0 ∧ configured.usbConfiguration ≠ 0 ∧
    (configured.ep configured.params.reportEp).en = true ∧
    (configured.ep configured.params.reportEp).committed.length < bankCount (configured.ep configured.params.reportEp).banks ∧
    (configured.ep configured.params.reportEp).cur.length + 8 ≤ (configured.ep configured.params.reportEp).size ∧
    pendingReport.usbConfiguration ≠ 0 ∧ pendingReport.ctx = .main ∧ pendingReport.params.sendBudget ≠ 0 ∧
    (pendingReport.ep pendingReport.params.reportEp).wral = false := by decide +kernel

/-- SEND at its poll, started in frame 2046. -/
def polling (s : State) : State :=
  { s with ie := false, mainPc := [.sendPollAgain], sendL := { s := true, t0 := 2046 }, frame := 2046 }

theorem witness_SendResumes :
    (polling configured).halted = false ∧ (polling configured).ctx = .main ∧ (polling configured).script = [] ∧
    (polling configured).mainPc = .sendPollAgain :: [] ∧ (polling configured).epSel = configured.params.reportEp ∧
    (polling configured).devPending = false ∧ (polling configured).epPending = false ∧
    (configured.ep (polling configured).epSel).cur.length + 8 ≤ (configured.ep configured.epSel).size ∧
    ((polling pendingReport).ep (polling pendingReport).epSel).wral = false ∧
    { polling pendingReport with usbConfiguration := 0 }.usbConfiguration = 0 ∧
    (polling pendingReport).usbConfiguration ≠ 0 ∧
    expired pendingReport.params.sendBudget (polling pendingReport).sendL.t0 3 = true ∧
    expired pendingReport.params.sendBudget (polling pendingReport).sendL.t0 2 = false := by decide +kernel
theorem witness_PollCycle : configured.memoryWf ∧ configured.halted = false ∧ rawP3.length = 32 ∧ rawP3.getD 0 0 = 0x11 ∧
    (0x10 :: List.replicate 31 (0x77 : Byte)).length = 32 ∧ (0x10 :: List.replicate 31 (0x77 : Byte)).getD 0 0 ≠ 0x11 :=
  ⟨memoryWf_of _ (by decide +kernel), by decide +kernel⟩
theorem witness_EndOfReset : configured.halted = false ∧ ∃ t, exec .eorstHandler haltedState = .next t := ⟨rfl, _, rfl⟩
theorem witness_AutoWrite : (pendingReport.ep pendingReport.params.reportEp).wral = false ∧
    (configured.ep configured.params.reportEp).en = true ∧
    (configured.ep configured.params.reportEp).committed.length < bankCount (configured.ep configured.params.reportEp).banks ∧
    (configured.ep configured.params.reportEp).cur.length + 8 ≤ (configured.ep configured.params.reportEp).size := by
  decide +kernel
theorem witness_AutoTick : addressed.usbConfiguration = 0 ∧ configured.idleRate = 0 ∧
    configured.usbConfiguration ≠ 0 ∧ (125 : Byte) ≠ 0 ∧ (2 : BitVec 2) ≠ 3 ∧
    (0 : Byte) + 1 ≠ 2 ∧ (254 : Byte) + 1 = 255 := by decide +kernel
theorem witness_AutonomousCadence : { configured with idleRate := 2 }.usbConfiguration ≠ 0 ∧
    { configured with idleRate := 2 }.idleRate ≠ 0 ∧ configured.idleCounter = 0 ∧ configured.sofDiv = 0 ∧
    7 < 4 * { configured with idleRate := 2 }.idleRate.toNat ∧ 8 = 4 * { configured with idleRate := 2 }.idleRate.toNat := by
  decide +kernel
theorem witness_DevIsr : { configured with sof := true, eorst := true }.canEnter .devIsr = true ∧
    (after (exec .devIsr { configured with sof := true, eorst := true }) fun t => (t.halted, t.usbConfiguration)) =
      some (false, 0) := by decide +kernel
/-- An unread SETUP whose packet an OUT of `n` bytes has replaced (R175). -/
def replacedBy (n : Nat) : State :=
  { setupPending.modEp 0 (fun x => { x with outbuf := List.replicate n 7, rxout := true }) with epSel := 0 }

theorem witness_SetupIntake : { setupPending with epSel := 0 }.halted = false ∧ { setupPending with epSel := 0 }.epSel = 0 ∧
    (setupPending.ep 0).outbuf = [0x21, 0x0A, 0x05, 0x7D, 0x01, 0, 0, 0] ∧ (dispatching.ep 0).outbuf = [] ∧
    dispatching.epSel = 0 ∧ (replacedBy 7).halted = false ∧ (replacedBy 7).epSel = 0 ∧
    ((replacedBy 1).ep 0).outbuf.length = 1 ∧ ((replacedBy 7).ep 0).outbuf.length = 7 ∧ 7 < 8 := by decide +kernel
-- an OUT after the SETUP replaces the packet: what the witness above stands for
theorem test_hOut_replaces_packet : after (exec (.hOut 5 0 [7]) setupPending) (fun t => ((t.ep 0).outbuf, (t.ep 0).rxstp)) =
    some ([7], true) := by decide +kernel
theorem witness_DescSearch : configured.halted = false ∧ descSearch configured.params 0x0200 0 = some 1 ∧
    descSearch configured.params 0x0200 1 = none := by decide +kernel
theorem witness_CtrlFifoWriteStarts :
    dispatching.halted = false ∧ dispatching.epSel = 0 ∧ (33 : Byte).toNat ≤ (Config.counting 0 33).length ∧
    ((dispatching.modEp 0 fun x => { x with rxout := true }).ep 0).rxout = true ∧ (dispatching.ep 0).rxout = false ∧
    (dispatching.ep 0).en = true ∧ (dispatching.ep 0).committed.length < bankCount (dispatching.ep 0).banks ∧
    (dispatching.ep 0).cur.length + (31 : Byte).toNat ≤ (dispatching.ep 0).size ∧ (31 : Byte).toNat < 32 ∧
    (dispatching.ep 0).banks = .one ∧ (dispatching.ep 0).committed = [] ∧
    (dispatching.ep 0).cur.length + 32 ≤ (dispatching.ep 0).size ∧ 32 ≤ (32 : Byte).toNat ∧
    dispatching.params.zlpAfterFull = true ∧ dispatching.ctx = .epIsr := by decide +kernel

/-- A transfer at its hold, `rem` bytes left. -/
def inTransfer (rem : Byte) : State :=
  { dispatching with
    isrPc := [.cwWait, .setPhase .idle]
    ce := { phase := .cwWait, src := Config.counting 0x80 64, pos := 32, rem := rem, lastN := 32 } }

/-- The same with the bank not taken. -/
def inTransferHeld : State := (inTransfer 32).modEp 0 fun x => { x with committed := [[1]] }

theorem witness_CtrlFifoWriteContinues :
    (inTransfer 32).halted = false ∧ (inTransfer 32).ctx = .epIsr ∧ (inTransfer 32).script = [] ∧
    (inTransfer 32).isrPc = .cwWait :: [.setPhase .idle] ∧ (inTransfer 32).epSel = 0 ∧
    (inTransfer 32).params.zlpAfterFull = true ∧
    (((inTransfer 32).modEp 0 fun x => { x with rxout := true }).ep 0).rxout = true ∧
    ((inTransfer 32).ep 0).rxout = false ∧ ((inTransfer 32).ep 0).en = true ∧ ((inTransfer 32).ep 0).banks = .one ∧
    ((inTransfer 32).ep 0).committed = [] ∧ ((inTransfer 32).ep 0).cur = [] ∧ ((inTransfer 32).ep 0).size = 32 ∧
    min (inTransfer 32).ce.rem.toNat 32 = 32 ∧ min (inTransfer 31).ce.rem.toNat 32 < 32 ∧
    min (inTransfer 0).ce.rem.toNat 32 < 32 := by decide +kernel
/-- A request being dispatched while a bus reset has disabled endpoint 0. -/
def dispatchingDisabled : State := dispatching.modEp 0 fun x => { x with en := false }

theorem witness_requests_disabled : dispatchingDisabled.halted = false ∧ dispatchingDisabled.ctx = .epIsr ∧
    dispatchingDisabled.epSel = 0 ∧ (dispatchingDisabled.ep 0).en = false ∧ (dispatchingDisabled.ep 0).rxout = false ∧
    (dispatchingDisabled.ep 0).txrdy = false ∧ (0 : Byte).toNat ≤ ([] : List Byte).length ∧
    ((dispatching.modEp 0 fun x => { x with rxout := true }).ep 0).rxout = true := by decide +kernel
theorem witness_SetAddress : dispatching.halted = false ∧ dispatching.ctx = .epIsr ∧ dispatching.epSel = 0 ∧
    (dispatching.ep 0).en = true ∧ (dispatching.ep 0).banks = .one ∧ (dispatching.ep 0).committed = [] ∧
    dispatching.script = [] ∧ dispatching.attached = true ∧ (dispatching.ep 0).stallReq = false ∧
    ((dispatching.modEp 0 fun x => { x with banks := .two }).ep 0).committed.length + 1 <
      bankCount ((dispatching.modEp 0 fun x => { x with banks := .two }).ep 0).banks := by decide +kernel
theorem witness_SetConfiguration : dispatching.halted = false ∧ dispatching.epSel = 0 ∧ (dispatching.ep 0).en = true ∧
    (dispatching.ep 0).committed.length < bankCount (dispatching.ep 0).banks ∧
    dispatching.params.epConfig 3 = some Config.exampleReportConfig ∧ Config.exampleReportConfig.enabled = true ∧
    dispatching.params.epConfig 4 = some Config.disabledConfig ∧ Config.disabledConfig.enabled = false := by decide +kernel
theorem witness_ClearFeature : dispatching.halted = false ∧ ((0x0181 : Half).extractLsb' 0 7).toNat = (1 : EpNum).val ∧
    ((0xFF84 : Half).extractLsb' 0 7).toNat = (4 : EpNum).val ∧ (4 : EpNum) ≠ 0 ∧ (dispatching.ep 0).en = true ∧
    (dispatching.ep 0).committed.length < bankCount (dispatching.ep 0).banks ∧ (1 : Half) ≠ 0 ∧
    (0x0080 : Half).extractLsb' 0 7 = 0 ∧ 4 < ((5 : Half).extractLsb' 0 7).toNat ∧ dispatching.epSel = 0 := by decide +kernel
theorem witness_SetIdle : dispatching.halted = false ∧ dispatching.epSel = 0 ∧ (dispatching.ep 0).en = true ∧
    (dispatching.ep 0).committed.length < bankCount (dispatching.ep 0).banks := by decide +kernel

/-- The first descriptor of the example table. -/
def firstDescriptor : DescriptorEntry := { value := 0x0100, index := 0, data := Config.counting 0x00 18 }

theorem witness_GetDescriptor :
    (∀ d ∈ dispatching.params.descTable, ¬(d.value = 0x0300 ∧ d.index = 0)) ∧
    dispatching.params.descTable = [] ++ firstDescriptor :: dispatching.params.descTable.drop 1 ∧
    18 = min (256 : Half).toNat (min 255 firstDescriptor.data.length) ∧ 18 < 32 ∧
    dispatching.params.descTable[2]?.map (fun d => min (32 : Half).toNat (min 255 d.data.length)) = some 32 ∧
    (dispatching.ep 0).en = true ∧ (dispatching.ep 0).rxout = false ∧ (dispatching.ep 0).banks = .one ∧
    (dispatching.ep 0).committed = [] ∧ (dispatching.ep 0).cur = [] ∧ (dispatching.ep 0).size = 32 ∧
    dispatching.params.zlpAfterFull = true ∧ dispatching.ctx = .epIsr ∧
    dispatchingDisabled.params.descTable = dispatching.params.descTable ∧ (dispatchingDisabled.ep 0).rxout = false ∧
    (dispatchingDisabled.ep 0).txrdy = false := by decide +kernel
theorem witness_GetReport : dispatching.halted = false ∧ dispatching.epSel = 0 ∧ (dispatching.ep 0).en = true ∧
    (dispatching.ep 0).committed.length < bankCount (dispatching.ep 0).banks ∧
    (dispatching.ep 0).cur.length + 8 ≤ (dispatching.ep 0).size ∧
    ((dispatching.modEp 0 fun x => { x with committed := [[]] }).ep 0).txrdy = false ∧ dispatching.ctx = .epIsr := by
  decide +kernel
/-- EP_ISR before its READ_STATUS, after a bus reset cleared RXSTP[0] (IN3). -/
def setupLost : State := { dispatchingDisabled with isrPc := [.setupStatus], ce := { configured.ce with phase := .idle } }

theorem witness_EpIsrServesRequest : setupPending.canEnter .epIsr = true ∧ setupLost.halted = false ∧
    setupLost.script = [] ∧ setupLost.ctx = .epIsr ∧ setupLost.isrPc = .setupStatus :: [] ∧ setupLost.epSel = 0 ∧
    (setupLost.ep 0).rxstp = false := by decide +kernel

theorem witness_InterruptEntryAndReturn : setupPending.script = [] ∧ setupPending.ctx = .main ∧ setupPending.ie = true ∧
    setupPending.halted = false ∧ setupPending.epPending = true ∧
    { configured with sof := true }.devPending = true ∧
    dispatching.script = [] ∧ dispatching.ctx ≠ .main ∧ dispatching.isrPc = [] ∧ dispatching.halted = false := by decide +kernel
theorem witness_IsrOrderDecides :
    { setupPending with sof := true }.devPending = true ∧ { setupPending with sof := true }.epPending = true ∧
    setupPending.devPending = false ∧ { configured with sof := true }.epPending = false := by decide +kernel
theorem witness_ContextChanges_return : dispatching.hostScript = true ∧
    ∃ t, step dispatching = .next t ∧ t.ctx ≠ dispatching.ctx := ⟨rfl, _, rfl, by decide +kernel⟩
theorem witness_HaltedForGood : haltedState.halted = true ∧ Instr.send.wf = true ∧ isHostAction .send = false ∧
    haltedState.script = [] ∧ { haltedState with script := [entryOf 0 [0x40]] }.hostScript = true ∧
    ∃ t, step { haltedState with script := [entryOf 0 [0x40]] } = .next t :=
  ⟨rfl, rfl, rfl, rfl, by decide +kernel, _, rfl⟩
theorem witness_HandlerStepByStep : setupPending.script = [] ∧ setupPending.canEnter .epIsr = true ∧
    { configured with sof := true }.canEnter .devIsr = true ∧
    (∃ t, exec .epIsr setupPending = .next t ∧ t.quiescent = true) ∧
    (∃ t, exec .epIsr addressPending = .next t ∧ t.quiescent = true) ∧
    (∃ t, exec .devIsr { configured with sof := true } = .next t ∧ t.quiescent = true) :=
  ⟨by decide +kernel, by decide +kernel, by decide +kernel,
    ⟨_, rfl, by decide +kernel⟩, ⟨_, rfl, by decide +kernel⟩, ⟨_, rfl, by decide +kernel⟩⟩
theorem witness_HandlerStepByStep_quiescent :
    configured.script = [] ∧ configured.quiescent = true ∧ configured.ctx = .main ∧
    inTransferHeld.script = [] ∧ inTransferHeld.quiescent = true ∧ inTransferHeld.ctx ≠ .main ∧
    haltedState.quiescent = true ∧ haltedState.halted = true ∧ (∃ t, step configured = .next t) ∧
    (∃ t, step inTransferHeld = .next t) ∧ ∃ t, step haltedState = .next t :=
  ⟨rfl, by decide +kernel, rfl, rfl, by decide +kernel, by decide +kernel, by decide +kernel, rfl,
    ⟨_, rfl⟩, ⟨_, rfl⟩, ⟨_, rfl⟩⟩
theorem witness_NoNestingKept : (inTransfer 32).noNesting ∧ (inTransfer 32).ctx ≠ .main ∧
    ∃ t, step (inTransfer 32) = .next t :=
  ⟨fun _ => ⟨rfl, by decide +kernel⟩, by decide +kernel, _, rfl⟩
theorem witness_HaltRecordedKept : haltedState.haltRecorded ∧ configured.haltRecorded ∧ ∃ t, step configured = .next t :=
  ⟨⟨rfl, fun _ => rfl⟩, ⟨rfl, fun h => absurd h (by decide +kernel)⟩, _, rfl⟩
theorem witness_ParamsReadOnly : ∃ t, step (inTransfer 32) = .next t := ⟨_, rfl⟩
theorem witness_PhaseKept : configured.hostScript = true ∧ configured.phaseInv ∧ (inTransfer 32).phaseInv ∧
    ∃ t, step (inTransfer 32) = .next t :=
  ⟨rfl, ⟨by decide +kernel, rfl⟩, ⟨by decide +kernel, .inr (.inr ⟨[.cwWait], .setPhase .idle, rfl, rfl⟩)⟩, _, rfl⟩

/-- AUTO_TICK between its increment and its reset. -/
def comparing : State :=
  { configured with ctx := .devIsr, ie := false, isrPc := [.tickCompareRate 2], idleRate := 2, idleCounter := 2 }

theorem witness_IdleCountKept : comparing.hostScript = true ∧ comparing.idleInv ∧ ∃ t, step comparing = .next t :=
  ⟨rfl, ⟨by decide +kernel, fun v h => absurd (show Line.setIdleCounter v ∈ [] from h) List.not_mem_nil,
    by decide +kernel, rfl, .inr ⟨rfl, by decide +kernel⟩⟩, _, rfl⟩

/-- SET_IDLE between its two writes, the count above the new rate (log 32). -/
def betweenIdleWrites : State :=
  { dispatching with isrPc := [.setIdleCounter 0, .commit, .setPhase .idle], idleRate := 2, idleCounter := 60 }

theorem witness_IdleCountKept_above :
    comparing.idleRate ≠ 0 ∧ comparing.idleRate.toNat ≤ comparing.idleCounter.toNat ∧
    betweenIdleWrites.idleInv ∧ betweenIdleWrites.idleRate ≠ 0 ∧
    betweenIdleWrites.idleRate.toNat ≤ betweenIdleWrites.idleCounter.toNat ∧ betweenIdleWrites.halted = false :=
  ⟨by decide +kernel, by decide +kernel,
    ⟨by decide +kernel, fun v h => absurd (show Line.setIdleCounter v ∈ [] from h) List.not_mem_nil,
      by decide +kernel, rfl, by decide +kernel⟩, by decide +kernel, by decide +kernel, rfl⟩
-- R236 with R6 (log 32): the boundary between SET_IDLE's two writes, and the step after it
theorem test_setIdle_steps :
    [1, 2].map (fun n =>
      after (runSteps n { dispatching with isrPc := setIdleCode 2, idleRate := 125, idleCounter := 60 })
        fun t => (t.idleRate, t.idleCounter, t.ctx)) = [some (2, 60, .epIsr), some (2, 0, .epIsr)] := by decide +kernel

/-- MAIN inside the critical section of REPORT_UPDATE. -/
def updating : State := { configured with ie := false, mainPc := [.setReportByte 7 1, .restoreI] }

theorem witness_CriticalSections : updating.hostScript = true ∧ updating.sectionInv ∧ updating.noNesting ∧
    ∃ t, step updating = .next t ∧ t.report ≠ updating.report :=
  ⟨rfl, ⟨by decide +kernel, by decide +kernel⟩, fun h => absurd rfl h, _, rfl, by decide +kernel⟩

/-- SET_ADDRESS's hold after a bus reset disabled endpoint 0 (SA6). -/
def stuck : State :=
  { dispatching.modEp 0 (fun x => { x with en := false }) with isrPc := [.waitTxrdy, .setDevaddr 5, .setPhase .idle] }

/-- CTRL_FIFO_WRITE's hold after a bus reset disabled endpoint 0. -/
def stuckInCw : State := { dispatchingDisabled with isrPc := [.cwWait, .setPhase .idle] }

theorem witness_StuckInWait : stuck.stuckInWait ∧ (∃ t, step stuck = .next t) ∧
    stuckInCw.stuckInWait ∧ ∃ t, step stuckInCw = .next t :=
  ⟨⟨rfl, by decide +kernel, rfl, _, _, rfl, .inl rfl⟩, ⟨_, rfl⟩,
    ⟨rfl, by decide +kernel, rfl, _, _, rfl, .inr ⟨rfl, by decide +kernel⟩⟩, _, rfl⟩

theorem portShape_of (s : State)
    (hb : ∀ e : EpNum, (s.ep e).committed.length ≤ bankCount (s.ep e).banks)
    (hd : ∀ e : EpNum, (s.ep e).en = false → (s.ep e).cur = [] ∧ (s.ep e).committed = [])
    (hc : (s.ep 0).en = true → (s.ep 0).banks = .one ∧ (s.ep 0).size = 32)
    (ht : ∀ e : EpNum, e ≠ 0 → (s.ep e).en = true →
      ((s.params.epConfig e).any fun c => (s.ep e).banks == c.banks && (s.ep e).size == c.size) = true)
    (hf : (s.ep 0).rxstp = true → (s.ep 0).cur = [] ∧ (s.ep 0).committed = []) : PortShape s := by
  refine ⟨hb, hd, hc, fun e he hen => ?_, hf⟩
  have h := ht e he hen
  cases hq : s.params.epConfig e with
  | none => rw [hq] at h; cases h
  | some c =>
    rw [hq] at h
    simp only [Option.any_some, Bool.and_eq_true, beq_iff_eq] at h
    exact ⟨c, rfl, h.1, h.2⟩

/-- AUTO_WRITE before its third byte. -/
def writing : State :=
  { configured.modEp 3 (fun x => { x with cur := [0, 0] }) with
    ctx := .devIsr, ie := false, isrPc := ((writeReportCode.drop 2) ++ [.commitClr]) }

/-- What is known there. -/
def writingRoom : Room :=
  { ie := false, sel := some 3, busy := false, acked := false, free0 := false, freeReport := true, cur := 2 }

theorem witness_RoomKept : writing.hostScript = true ∧ writing.noNesting ∧ writing.roomInv ∧
    ∃ t, step writing = .next t ∧ (∀ l ∈ t.position.head?, inBank l = true) :=
  ⟨rfl, fun _ => ⟨rfl, by decide +kernel⟩,
    ⟨by decide +kernel,
      portShape_of _ (by decide +kernel) (by decide +kernel) (by decide +kernel) (by decide +kernel) (by decide +kernel),
      fun _ => ⟨⟨writingRoom,
        { ie := by decide +kernel, settled := by decide +kernel
          sel := fun e h => by cases h; decide +kernel
          cur := by decide +kernel, busy := by decide +kernel, acked := by decide +kernel
          free0 := by decide +kernel, freeReport := by decide +kernel }, by decide +kernel⟩,
        fun _ => ⟨rfl, by decide +kernel⟩⟩⟩,
    _, rfl, by decide +kernel⟩
-- the last line of a write sequence leads to a position outside it, where CUR is empty
theorem test_write_ends :
    after (step { writing with isrPc := [.commitClr] }) (fun t => (t.position, (t.ep 3).cur, (t.ep 3).committed)) =
    some ([], [], [[0, 0]]) := by decide +kernel
theorem witness_EnumerationTransitions : configured.attached = true ∧ configured.halted = false ∧
    (∃ t, exec .hBusReset configured = .next t) ∧ (∃ t, exec .eorstHandler configured = .next t) ∧
    (dispatching.ep 0).en = true ∧ (∃ t, exec (.setConfiguration 0 args0) dispatching = .next t) ∧
    (∃ t, exec .send configured = .next t) :=
  ⟨rfl, rfl, ⟨_, rfl⟩, ⟨_, rfl⟩, by decide +kernel, ⟨_, rfl⟩, ⟨_, rfl⟩⟩
theorem witness_EnumerationTransitions_attach :
    { State.reset with mainPc := [.attach, .setI true] }.ctx = .main ∧ State.reset.ie = false ∧
    State.reset.halted = false ∧ State.reset.script = [] ∧
    { State.reset with mainPc := [.attach, .setI true] }.mainPc = .attach :: [.setI true] ∧ (State.reset.ep 0).en = false := by
  decide +kernel
theorem witness_PowerOnAndBoot : Config.exampleParams.reportInit.length = 8 := by decide +kernel
theorem witness_BusResetCompletes : configured.attached = true ∧ configured.ctx = .main ∧ configured.ie = true ∧
    configured.halted = false ∧ configured.eorste = true := by decide +kernel
theorem witness_ResetInvariants : Config.exampleParams.reportInit.length ≤ 8 ∧ Unspecified.zero.raw.length ≤ 32 ∧
    Unspecified.zero.cstate.length ≤ 8 ∧ Config.exampleParams.valid = true := by decide +kernel
theorem witness_params_valid : Config.exampleParams.valid = true := by decide +kernel

end Sys2Proof.Tests
end

section
/-! PROOF. The induction over the parts of a step once for all: a property that every line, an
interrupt's entry and return, and every host action keep, and that says nothing of the positions, the schedule and the
model's own fields, is kept by every step. The read-only parameters (10_state.md R42, R43) are such a property. -/

namespace Sys2Proof.Machine

open Sys2Proof

/-- What a host action may change: port state and the host's trace (40_port.md section 2). -/
def OnlyPortChanges (s t : State) : Prop :=
  t = { s with
    devAddr := t.devAddr, adden := t.adden, eps := t.eps, frame := t.frame, eorst := t.eorst, sof := t.sof
    other := t.other, hostRx := t.hostRx }

/-! Every branch of a host action's effect is an update of port fields and of the trace. -/

theorem hostSetup_onlyPort (a : DevAddr) (p : List Byte) (s : State) : OnlyPortChanges s (hostSetup a p s) := by
  unfold hostSetup
  repeat' split
  all_goals rfl

theorem hostIn_onlyPort (a : DevAddr) (e : EpNum) (s : State) : OnlyPortChanges s (hostIn a e s) := by
  unfold hostIn
  repeat' split
  all_goals rfl

theorem hostOut_onlyPort (a : DevAddr) (e : EpNum) (d : List Byte) (s : State) :
    OnlyPortChanges s (hostOut a e d s) := by
  unfold hostOut
  repeat' split
  all_goals rfl

/-- A host action without a guard: its effect, or nothing while the device is not attached (R170). -/
theorem onlyPort_ifAttached {s t u : State} (ht : OnlyPortChanges s t)
    (h : Host.Outcome.next (φ := Fault) (ρ := Refusal) (if s.attached then t else s) = .next u) :
    OnlyPortChanges s u := by
  obtain rfl := Host.Outcome.next.inj h
  split
  · exact ht
  · rfl

theorem exec_hostAction_onlyPort {i : Instr} {s t : State} (hi : isHostAction i = true) (h : exec i s = .next t) :
    OnlyPortChanges s t := by
  cases i with
  | hBusReset => exact onlyPort_ifAttached (t := hostBusReset s) rfl h
  | hSof => exact onlyPort_ifAttached (t := hostSof s) rfl h
  | hDeveventOther => exact onlyPort_ifAttached (t := { s with other := true }) rfl h
  | hIn a e => exact onlyPort_ifAttached (hostIn_onlyPort a e s) h
  | hSetup a p =>
    simp only [exec, execHSetup] at h
    split at h
    · cases h; rfl
    · split at h
      · cases h
      · cases h; exact hostSetup_onlyPort a p s
  | hOut a e d =>
    simp only [exec, execHOut] at h
    split at h
    · cases h; rfl
    · split at h
      · cases h
      · cases h; exact hostOut_onlyPort a e d s
  | _ => cases hi

/-- The guard of interrupt entry (60_exceptions.md R371) excludes the halt. -/
theorem State.halted_of_canEnter {c : Ctx} {s : State} (h : s.canEnter c = true) : s.halted = false := by
  simp only [State.canEnter, Bool.and_eq_true, Bool.not_eq_true'] at h
  obtain ⟨⟨_, running⟩, _⟩ := h
  exact running

/-- A property that every part of a step keeps: a line, an entry and a return while the machine runs, a host action at any
time, and the bookkeeping of positions, `req`, schedule, draws and answer. -/
structure KeptByParts (P : State → Prop) : Prop where
  line : ∀ (l : Line) {s : State}, s.halted = false → P s → P (lineStep l s).1
  entry : ∀ (c : Ctx) {s : State}, s.halted = false → P s → P (interruptEntry c s)
  exit : ∀ {s : State}, s.halted = false → P s → P (returnFromInterrupt s)
  host : ∀ {s t : State}, OnlyPortChanges s t → P s → P t
  isrPc : ∀ {s : State} (ls : List Line), P s → P { s with isrPc := ls }
  mainPc : ∀ {s : State} (ls : List Line), P s → P { s with mainPc := ls }
  req : ∀ {s : State} (r : UsbRequest), P s → P { s with req := r }
  script : ∀ {s : State} (es : List ScriptEntry), P s → P { s with script := es }
  draws : ∀ {s : State} (n : Nat), P s → P { s with draws := n }
  ret : ∀ {s : State} (v : Ret), P s → P { s with ret := v }

namespace KeptByParts

variable {P : State → Prop} {s t : State}

theorem runLines_kept (hP : KeptByParts P) (n : Nat) (ls : List Line) (h : P s) : P (runLines n ls s).1 :=
  (runLines_invariant P (fun _ => True) (fun l _ _ hh _ hp => ⟨hP.line l hh hp, fun _ _ => trivial⟩)
    n ls s (fun _ _ => trivial) h).1

theorem park_kept (hP : KeptByParts P) (ls : List Line) (h : P s) : P (s.park ls) := by
  unfold State.park
  split
  · exact hP.mainPc _ h
  · exact hP.isrPc _ h
  · exact hP.isrPc _ h

theorem perform_kept (hP : KeptByParts P) (ls : List Line) (h : P s) : P (perform ls s) := by
  cases hh : s.halted
  · rw [perform_parked hh rfl]
    exact hP.park_kept _ (hP.runLines_kept _ _ h)
  · rwa [perform_halted hh]

theorem takeInterrupt_kept (hP : KeptByParts P) (c : Ctx) (h : P s) : P (takeInterrupt c s) := by
  rcases takeInterrupt_cases c s with ⟨_, heq⟩ | ⟨hc, u, ls, hrun, hend⟩
  · rwa [heq]
  · have hh := State.halted_of_canEnter hc
    have hu : P u := by simpa only [hrun] using hP.runLines_kept lineBound (handlerCode c) (hP.entry c hh h)
    rcases hend with ⟨_, hhu, heq⟩ | ⟨_, heq⟩ <;> rw [heq]
    · exact hP.exit hhu hu
    · exact hP.isrPc ls hu

theorem mainStep_kept (hP : KeptByParts P) (hh : s.halted = false) (h : P s) : P (mainStep s) := by
  rcases mainStep_cases s with heq | ⟨l, ls, _, _, heq⟩ <;> rw [heq]
  · exact h
  · exact hP.mainPc _ (hP.line l hh h)

theorem isrStep_kept (hP : KeptByParts P) (hh : s.halted = false) (h : P s) : P (isrStep s) := by
  rcases isrStep_cases s with ⟨_, heq⟩ | heq | ⟨l, ls, _, _, heq⟩ <;> rw [heq]
  · exact hP.exit hh h
  · exact h
  · exact hP.isrPc _ (hP.line l hh h)

theorem cpuStep_kept (hP : KeptByParts P) (h : P s) : P (cpuStep s) := by
  rcases cpuStep_cases s with ⟨_, heq⟩ | ⟨hh, _, heq⟩ | ⟨hh, _, _, heq⟩ | ⟨hh, _, _, heq⟩ | ⟨hh, _, _, heq⟩ <;> rw [heq]
  · exact h
  · exact hP.isrStep_kept hh h
  · exact hP.entry _ hh (hP.draws _ h)
  · exact hP.mainStep_kept hh (hP.draws _ h)
  · exact hP.mainStep_kept hh h

theorem cpuOp_kept {f : State → State} (hf : s.halted = false → P (f s)) (h : P s) : P (cpuOp f s) := by
  unfold cpuOp
  cases hh : s.halted
  · exact hf hh
  · exact h

theorem runRequest_kept (hP : KeptByParts P) (i : Instr) (r : Request) (h : P s) : P (runRequest i r s) :=
  cpuOp_kept (fun _ => hP.perform_kept _ (hP.req _ h)) h

/-- A port primitive or another operation whose effect is that of one line. -/
theorem cpuOp_line (hP : KeptByParts P) (l : Line) (h : P s) : P (cpuOp (fun s => (lineStep l s).1) s) :=
  cpuOp_kept (fun hh => hP.line l hh h) h

/-- An operation that only answers a value. -/
theorem cpuOp_ret (hP : KeptByParts P) (v : State → Ret) (h : P s) :
    P (cpuOp (fun s => { s with ret := v s }) s) :=
  cpuOp_kept (fun _ => hP.ret _ h) h

theorem exec_kept (hP : KeptByParts P) {i : Instr} (hi : exec i s = .next t) (h : P s) : P t := by
  cases i
  case hBusReset | hSof | hSetup | hIn | hOut | hDeveventOther =>
    exact hP.host (exec_hostAction_onlyPort rfl hi) h
  case setAddress | setConfiguration | clearFeature | setIdle | getDescriptor | getReport | fatalUnhandled =>
    cases hi; exact hP.runRequest_kept _ _ h
  case devIsr | epIsr => cases hi; exact hP.takeInterrupt_kept _ h
  case eorstHandler | autoTick | autoWrite | setupIntake | ctrlFifoWrite | send | reportUpdate | decode | pollCycle =>
    cases hi; exact hP.perform_kept _ h
  case descSearch v x => cases hi; exact hP.cpuOp_ret (fun s => .entry (descSearch s.params v x)) h
  case syncCheck => cases hi; exact hP.cpuOp_ret (fun s => .flag (syncOk (memRead s.raw 0))) h
  case remap c => cases hi; exact hP.cpuOp_ret (fun s => .report (remapOf s.params c)) h
  case vote n => cases hi; exact hP.cpuOp_ret (fun _ => .flag (voteNibble n)) h
  case decodeRawByte b => cases hi; exact hP.cpuOp_ret (fun _ => .bits (rawBits b).1 (rawBits b).2) h
  case decodeGroup raw k =>
    simp only [exec, execDecodeGroup] at hi
    split at hi
    · cases hi; exact hP.cpuOp_ret (fun _ => .byte (groupOf raw k)) h
    · cases hi
  case readStatus => cases hi; exact hP.cpuOp_ret (fun s => .status (s.ep s.epSel).status) h
  case readFrame => cases hi; exact hP.cpuOp_ret (fun s => .frame s.frame) h
  case readDevint => cases hi; exact hP.cpuOp_ret (fun s => .events s.events) h
  case select e => cases hi; exact hP.cpuOp_line (.select e) h
  case ackSetup => cases hi; exact hP.cpuOp_line .ackSetup h
  case commit => cases hi; exact hP.cpuOp_line .commit h
  case commitClr => cases hi; exact hP.cpuOp_line .commitClr h
  case fifoRead => cases hi; exact cpuOp_kept (fun hh => hP.ret _ (hP.line (.intakeByte 0) hh h)) h
  case fifoWrite b => cases hi; exact hP.cpuOp_line (.fifoWrite b) h
  case stall => cases hi; exact hP.cpuOp_line .stall h
  case epReset => cases hi; exact hP.cpuOp_line .epReset h
  case epConfigure c => cases hi; exact hP.cpuOp_line (.epConfigure c) h
  case ep0Init => cases hi; exact hP.cpuOp_line .ep0Init h
  case setDevaddr a => cases hi; exact hP.cpuOp_line (.setDevaddr a) h
  case clearDevint => cases hi; exact hP.cpuOp_line .clearDevint h
  case armSetupIrq => cases hi; exact hP.cpuOp_line .armSetupIrq h

theorem step_kept (hP : KeptByParts P) (hs : step s = .next t) (h : P s) : P t := by
  rcases step_cases hs with rfl | ⟨entry, entries, n, _, _, rfl⟩ | ⟨entry, entries, i, _, _, _, _, _, hi⟩
  · exact hP.cpuStep_kept h
  · exact hP.cpuStep_kept (hP.script _ h)
  · exact hP.exec_kept hi (hP.script _ h)

end KeptByParts

/-- No part of a step writes the read-only tables and the parameters (10_state.md R42, R43, 20_memory.md R91). -/
theorem params_keptByParts (p : Params) : KeptByParts fun s => s.params = p where
  line l s _ h := (lineStep_frame l s).params.trans h
  entry c s _ h := (interruptEntry_params c s).trans h
  exit _ h := (returnFromInterrupt_params _).trans h
  host hst h := (congrArg State.params hst).trans h
  isrPc _ h := h
  mainPc _ h := h
  req _ h := h
  script _ h := h
  draws _ h := h
  ret _ h := h

/-- Settles O51: the parameters are kept by every part of a step, so by the step. -/
theorem paramsReadOnly : Obligations.ParamsReadOnly := by
  intro s t h
  exact (params_keptByParts s.params).step_kept h rfl

end Sys2Proof.Machine
end

section
/-! PROOF. The critical sections of MAIN (20_memory.md R88, R90). In a run of the block a step is the CPU's own or a HOST
action's; only MAIN's own lines, interrupt entry and return touch what `sectionInv` speaks of. A MAIN line keeps the rest
of its position bracketed because the lines it expands to are bracketed and lead to an `I` no higher than `ieAfter` has
it. -/

namespace Sys2Proof.Machine

open Sys2Proof

/-! ## Bracketed positions -/

theorem bracketed_cons {ie : Bool} {l : Line} {ls : List Line} :
    bracketed ie (l :: ls) = true ↔ (needsSection l = true → ie = false) ∧ bracketed (ieAfter ie l) ls = true := by
  cases hl : needsSection l <;> cases ie <;> simp [bracketed, hl]

theorem bracketed_append (ls ls' : List Line) (ie : Bool) :
    bracketed ie (ls ++ ls') = true ↔ bracketed ie ls = true ∧ bracketed (ls.foldl ieAfter ie) ls' = true := by
  induction ls generalizing ie with
  | nil => simp [bracketed]
  | cons l ls ih => rw [List.cons_append, bracketed_cons, bracketed_cons, ih, List.foldl_cons, and_assoc]

theorem ieAfter_mono {ie ie' : Bool} (h : ie' = true → ie = true) (l : Line) :
    ieAfter ie' l = true → ieAfter ie l = true := by
  cases l
  case setI | boot | restoreI | remapReport | syncCheck | sendEntry | sendPoll | sendPollAgain | sendConfiguration
      | sendExpired => exact id
  all_goals exact h

/-- A position bracketed where `I` may be 1 is bracketed where it is 0. -/
theorem bracketed_mono {ie ie' : Bool} {ls : List Line} (h : ie' = true → ie = true) (hb : bracketed ie ls = true) :
    bracketed ie' ls = true := by
  induction ls generalizing ie ie' with
  | nil => rfl
  | cons l ls ih =>
    obtain ⟨needs, rest⟩ := bracketed_cons.mp hb
    refine bracketed_cons.mpr ⟨fun hl => ?_, ih (ieAfter_mono h l) rest⟩
    exact Bool.eq_false_of_not_eq_true fun hie => Bool.eq_false_iff.mp (needs hl) (h hie)

/-! ## One line -/

theorem portFifoWrite_ie_le {b : Byte} {s : State} (h : (portFifoWrite b s).ie = true) : s.ie = true := by
  rcases portFifoWrite_cases b s with ⟨_, heq⟩ | ⟨_, _, heq⟩ | ⟨_, heq⟩ <;> rw [heq] at h
  · exact h
  · cases h
  · exact h

theorem portCommitClr_ie_le {s : State} (h : (portCommitClr s).ie = true) : s.ie = true := by
  rcases portCommitClr_cases s with ⟨_, heq⟩ | ⟨_, _, heq⟩ | ⟨_, _, heq⟩ <;> rw [heq] at h
  · exact h
  · cases h
  · exact h

/-- Line `l`, run with `I` = `ie`, may leave `I` = `ie'` and the lines `ls` in front of any rest that is bracketed after
`l`: they are MAIN's, bracketed, and end with an `I` that `ieAfter` allows. -/
structure ExpandsBracketed (ie : Bool) (l : Line) (ie' : Bool) (ls : List Line) : Prop where
  own : ls.all mainLine = true
  inner : bracketed ie' ls = true
  after : ls.foldl ieAfter ie' = true → ieAfter ie l = true

/-- A line that puts no line in front. -/
theorem ExpandsBracketed.nil {ie ie' : Bool} {l : Line} (h : ie' = true → ieAfter ie l = true) :
    ExpandsBracketed ie l ie' [] := ⟨rfl, rfl, h⟩

/-- The poll of SEND's loop stands where `I` is 0, and what it goes on with restores `I` behind every access (R293). -/
theorem sendPollNext_bracketed (s : State) {l : Line} (hl : ieAfter false l = true) :
    ExpandsBracketed false l false (sendPollNext s) := by
  unfold sendPollNext
  split <;> exact ⟨rfl, rfl, fun _ => hl⟩

theorem mainLine_expandsBracketed {l : Line} {s : State} (hl : mainLine l = true)
    (needs : needsSection l = true → s.ie = false) :
    ExpandsBracketed s.ie l (lineStep l s).1.ie (lineStep l s).2 := by
  cases l
  case fifoWrite => exact .nil portFifoWrite_ie_le
  case commitClr => exact .nil portCommitClr_ie_le
  case selectReport | setI | saveI | setIdleCounter | setReportByte | enableSof | attach | setRawByte | probe
      | setCStateByte | sendReadFrame | ret => exact .nil id
  case restoreI => exact .nil fun _ => rfl
  case boot => exact ⟨rfl, rfl, fun _ => rfl⟩
  case readReport => exact ⟨rfl, by simp [lineStep, bracketed, needs rfl], id⟩
  case delay => simp only [lineStep]; split <;> exact ⟨rfl, rfl, id⟩
  case sample raw => cases raw <;> exact ⟨rfl, rfl, id⟩
  case syncCheck => simp only [lineStep]; split <;> exact ⟨rfl, rfl, fun _ => rfl⟩
  case decodeByte => simp only [lineStep, decodeFrom]; split <;> exact ⟨rfl, rfl, id⟩
  case remapReport => simp only [lineStep, remapFrom]; split <;> exact ⟨rfl, rfl, fun _ => rfl⟩
  case sendEntry | sendConfiguration | sendExpired =>
    simp only [lineStep]; split <;> exact ⟨rfl, rfl, fun _ => rfl⟩
  case sendPoll | sendPollAgain =>
    simp only [lineStep, needs rfl]
    exact sendPollNext_bracketed s rfl
  all_goals cases hl

/-- JoypadReport is written by the writes of its bytes only (20_memory.md R88). -/
theorem setReportByte_of_report_ne {l : Line} {s : State} (h : (lineStep l s).1.report ≠ s.report) :
    ∃ i b, l = .setReportByte i b := by
  cases l
  case setReportByte i b => exact ⟨i, b, rfl⟩
  case commit => exact absurd (portCommit_same s).report h
  case commitClr => exact absurd (portCommitClr_same s).report h
  case fifoWrite b => exact absurd (portFifoWrite_same b s).report h
  case intakeByte => exact absurd (portFifoRead_same s).report h
  case sample raw => cases raw <;> exact absurd rfl h
  all_goals exact absurd rfl h

/-! ## The CPU's own step -/

/-- The guard of interrupt entry asks for `I` = 1 (60_exceptions.md R371). -/
theorem State.ie_of_canEnter {c : Ctx} {s : State} (h : s.canEnter c = true) : s.ie = true := by
  simp only [State.canEnter, Bool.and_eq_true] at h
  obtain ⟨⟨⟨_, enabled⟩, _⟩, _⟩ := h
  exact enabled

theorem State.ie_of_mayEnter {s : State} (h : s.mayEnter = true) : s.ie = true :=
  (Bool.or_eq_true_iff.mp h).elim State.ie_of_canEnter State.ie_of_canEnter

theorem State.enters_ne_main (s : State) (dev : Bool) : s.enters dev ≠ .main := by
  unfold State.enters
  split <;> simp

/-- The invariant holds of the lines MAIN runs next too, where its position is at its end and those are the next
POLL_CYCLE (70_reset_and_hazards.md R412). -/
theorem mainCode_section {s : State} (h : s.sectionInv) (hm : s.ctx = .main) :
    (∀ l ∈ mainCode s, mainLine l = true) ∧ bracketed s.ie (mainCode s) = true := by
  obtain ⟨own, inside⟩ := h
  rw [if_pos hm] at inside
  unfold mainCode
  split
  · exact ⟨List.all_eq_true.mp rfl, rfl⟩
  · exact ⟨own, inside⟩

theorem mainStep_sectionInv {s : State} (hm : s.ctx = .main) (h : s.sectionInv) : (mainStep s).sectionInv := by
  rcases mainStep_cases s with heq | ⟨l, ls, hcode, _, heq⟩ <;> rw [heq]
  · exact h
  · obtain ⟨own, inside⟩ := mainCode_section h hm
    rw [hcode] at own inside
    obtain ⟨needs, rest⟩ := bracketed_cons.mp inside
    have hx := mainLine_expandsBracketed (own l List.mem_cons_self) needs
    have hctx : (lineStep l s).1.ctx = .main := (lineStep_frame l s).ctx.trans hm
    refine ⟨fun l' hl' => ?_, ?_⟩
    · rcases List.mem_append.mp hl' with hl' | hl'
      · exact List.all_eq_true.mp hx.own l' hl'
      · exact own l' (List.mem_cons_of_mem _ hl')
    · rw [if_pos hctx]
      exact (bracketed_append _ _ _).mpr ⟨hx.inner, bracketed_mono hx.after rest⟩

/-- A handler leaves MAIN's position, and its return restores the `I` = 1 that position is bracketed from (R374). -/
theorem isrStep_sectionInv {s : State} (hm : s.ctx ≠ .main) (h : s.sectionInv) : (isrStep s).sectionInv := by
  rcases isrStep_cases s with ⟨_, heq⟩ | heq | ⟨l, ls, _, _, heq⟩ <;> rw [heq]
  · obtain ⟨own, inside⟩ := h
    rw [if_neg hm] at inside
    exact ⟨own, inside⟩
  · exact h
  · have frame := lineStep_frame l s
    simp only [State.sectionInv, frame.ctx, frame.mainPc, if_neg hm] at h ⊢
    exact h

theorem interruptEntry_sectionInv {s : State} {c : Ctx} (hc : c ≠ .main) (hm : s.ctx = .main) (hie : s.ie = true)
    (h : s.sectionInv) : (interruptEntry c s).sectionInv := by
  unfold State.sectionInv at h ⊢
  rw [if_pos hm, hie] at h
  rw [interruptEntry_ctx, if_neg hc]
  exact h

theorem cpuStep_sectionInv {s : State} (h : s.sectionInv) : (cpuStep s).sectionInv := by
  rcases cpuStep_cases s with ⟨_, heq⟩ | ⟨_, hm, heq⟩ | ⟨_, hm, enter, heq⟩ | ⟨_, hm, _, heq⟩ | ⟨_, hm, _, heq⟩ <;>
    rw [heq]
  · exact h
  · exact isrStep_sectionInv hm h
  · exact interruptEntry_sectionInv (s.enters_ne_main _) hm (State.ie_of_mayEnter enter) h
  · exact mainStep_sectionInv hm h
  · exact mainStep_sectionInv hm h

theorem mainStep_report {s : State} (hm : s.ctx = .main) (h : s.sectionInv) (hr : (mainStep s).report ≠ s.report) :
    s.ie = false := by
  rcases mainStep_cases s with heq | ⟨l, ls, hcode, _, heq⟩ <;> rw [heq] at hr
  · exact absurd rfl hr
  · obtain ⟨i, b, rfl⟩ := setReportByte_of_report_ne hr
    obtain ⟨_, inside⟩ := mainCode_section h hm
    rw [hcode] at inside
    exact (bracketed_cons.mp inside).1 rfl

/-- No line of a handler writes JoypadReport (R88). -/
theorem isrStep_report {s : State} (hm : s.ctx ≠ .main) (h : s.noNesting) : (isrStep s).report = s.report := by
  rcases isrStep_cases s with ⟨_, heq⟩ | heq | ⟨l, ls, hpc, _, heq⟩ <;> rw [heq]
  · rfl
  · by_contra hr
    obtain ⟨i, b, rfl⟩ := setReportByte_of_report_ne hr
    obtain ⟨_, handlers⟩ := h hm
    rcases handlers _ (hpc ▸ List.mem_cons_self) with hdev | hep
    · cases hdev
    · cases hep

theorem cpuStep_report {s : State} (h : s.sectionInv) (hn : s.noNesting) (hr : (cpuStep s).report ≠ s.report) :
    s.ctx = .main ∧ s.ie = false := by
  rcases cpuStep_cases s with ⟨_, heq⟩ | ⟨_, hm, heq⟩ | ⟨_, _, _, heq⟩ | ⟨_, hm, _, heq⟩ | ⟨_, hm, _, heq⟩ <;>
    rw [heq] at hr
  · exact absurd rfl hr
  · exact absurd (isrStep_report hm hn) hr
  · exact absurd rfl hr
  · exact ⟨hm, mainStep_report (s := { s with draws := s.draws + 1 }) hm h hr⟩
  · exact ⟨hm, mainStep_report hm h hr⟩

/-! ## A step of a run of the block -/

/-- In a run of the block (log 3) a step is the CPU's own or a HOST action, with a schedule of HOST actions left. -/
theorem hostScript_step_cases {s t : State} (hs : s.hostScript = true) (h : step s = .next t) :
    ∃ entries, entries.all hostEntry = true ∧
      (t = cpuStep { s with script := entries } ∨
       ∃ i, isHostAction i = true ∧ exec i { s with script := entries } = .next t) := by
  rcases step_cases h with ht | ⟨entry, entries, n, hscript, _, ht⟩ | ⟨entry, entries, i, _, hscript, _, hd, _, hi⟩
  · exact ⟨s.script, hs, .inl ht⟩
  all_goals
    simp only [State.hostScript, hscript, List.all_cons, Bool.and_eq_true] at hs
    obtain ⟨hentry, hrest⟩ := hs
  · refine ⟨_, ?_, .inl ht⟩
    rw [List.all_cons, hrest, Bool.and_true]
    exact hentry
  · exact ⟨entries, hrest, .inr ⟨i, by simpa only [hostEntry, hd] using hentry, hi⟩⟩

/-- Settles O54: a HOST action touches neither MAIN's position nor `I` nor JoypadReport, and the CPU's own step keeps the
bracketing line by line. -/
theorem criticalSections : Obligations.CriticalSections := by
  intro s t hs hsec hnest hstep
  obtain ⟨entries, _, rfl | ⟨i, hi, hexec⟩⟩ := hostScript_step_cases hs hstep
  · exact ⟨cpuStep_sectionInv (s := { s with script := entries }) hsec,
      cpuStep_report (s := { s with script := entries }) hsec hnest⟩
  · have ports : OnlyPortChanges _ t := exec_hostAction_onlyPort hi hexec
    rw [ports]
    exact ⟨hsec, fun hr => absurd rfl hr⟩

end Sys2Proof.Machine
end

section
/-! PROOF. Encoding (30_encoding.md R110 to R114, R125). What two rows of the dispatch table that match one key have in
common is a matter of the table alone: their patterns agree where both masks look. Of rows 1 to 6 only CLEAR_FEATURE and
GET_REPORT do, and together their masks look at every bit. -/

namespace Sys2Proof.Machine

open Sys2Proof

/-! ## The key (R113) -/

theorem halfOfBytes_eq_or_shift (lo hi : Byte) : halfOfBytes lo hi = lo.setWidth 16 ||| hi.setWidth 16 <<< 8 := by
  refine BitVec.eq_of_getLsbD_eq fun i hi16 => ?_
  rw [halfOfBytes, BitVec.getLsbD_append, BitVec.getLsbD_or, BitVec.getLsbD_shiftLeft]
  by_cases low : i < 8
  · simp [low, hi16]
  · simp [low, hi16, BitVec.getLsbD_of_ge lo i (Nat.not_lt.mp low), (by omega : i - 8 < 16)]

/-! ## The first row that matches (R113) -/

/-- `firstMatch` answers a row that matches, or `.fatal` when none does. -/
theorem firstMatch_cases (k : Half) (rows : List RequestRow) :
    (∃ r ∈ rows, k &&& r.mask = r.pattern ∧ firstMatch k rows = r.request) ∨
    (firstMatch k rows = .fatal ∧ ∀ r ∈ rows, k &&& r.mask ≠ r.pattern) := by
  induction rows with
  | nil => exact .inr ⟨rfl, by simp⟩
  | cons row rows ih =>
    by_cases hrow : k &&& row.mask = row.pattern
    · exact .inl ⟨row, List.mem_cons_self, hrow, if_pos hrow⟩
    · have skip : firstMatch k (row :: rows) = firstMatch k rows := if_neg hrow
      rw [skip]
      rcases ih with ⟨r, hr, hmatch, heq⟩ | ⟨heq, hnone⟩
      · exact .inl ⟨r, List.mem_cons_of_mem _ hr, hmatch, heq⟩
      · exact .inr ⟨heq, List.forall_mem_cons.mpr ⟨hrow, hnone⟩⟩

/-- A last row for `.fatal` changes nothing, since `.fatal` is what no match gives. -/
theorem firstMatch_append_fatal {k : Half} {last : RequestRow} (h : last.request = .fatal) (rows : List RequestRow) :
    firstMatch k (rows ++ [last]) = firstMatch k rows := by
  induction rows with
  | nil => simp [firstMatch, h]
  | cons row rows ih => simp only [List.cons_append, firstMatch, ih]

theorem dispatchRow_eq_firstMatch_take (k : Half) : dispatchRow k = firstMatch k (dispatchTable.take 6) :=
  firstMatch_append_fatal (last := { request := .fatal, pattern := 0x0000, mask := 0x0000 }) rfl (dispatchTable.take 6)

/-! ## Two rows that match one key -/

section
variable {k : Half} {r r' : RequestRow} (h : k &&& r.mask = r.pattern) (h' : k &&& r'.mask = r'.pattern)
include h h'

theorem patterns_agree_of_match : r.pattern &&& r'.mask = r'.pattern &&& r.mask := by
  rw [← h, ← h', BitVec.and_assoc, BitVec.and_assoc, BitVec.and_comm r.mask]

theorem key_and_masks_of_match : k &&& (r.mask ||| r'.mask) = r.pattern ||| r'.pattern := by
  rw [BitVec.and_or_distrib_left, h, h']

end

/-- The columns of R114: CLEAR_FEATURE and GET_REPORT are the only two of rows 1 to 6 whose patterns agree where both
masks look (90_conflicts.md C6); no bit of the key escapes both masks. -/
theorem overlap_of_patterns_agree : ∀ r ∈ dispatchTable.take 6, ∀ r' ∈ dispatchTable.take 6, r ≠ r' →
    r.pattern &&& r'.mask = r'.pattern &&& r.mask →
    (r.request = .clearFeature ∧ r'.request = .getReport ∨ r.request = .getReport ∧ r'.request = .clearFeature) ∧
    r.mask ||| r'.mask = BitVec.allOnes 16 ∧ r.pattern ||| r'.pattern = 0x01A2 := by decide

theorem handled_request_ne_fatal : ∀ r ∈ dispatchTable.take 6, r.request ≠ .fatal := by decide

theorem overlap_of_match {k : Half} {r r' : RequestRow} (hr : r ∈ dispatchTable.take 6)
    (hr' : r' ∈ dispatchTable.take 6) (h : k &&& r.mask = r.pattern) (h' : k &&& r'.mask = r'.pattern) (hne : r ≠ r') :
    k = 0x01A2 ∧ (r.request = .clearFeature ∧ r'.request = .getReport ∨
      r.request = .getReport ∧ r'.request = .clearFeature) := by
  obtain ⟨pair, masks, patterns⟩ := overlap_of_patterns_agree r hr r' hr' hne (patterns_agree_of_match h h')
  have key := key_and_masks_of_match h h'
  rw [masks, patterns, BitVec.and_allOnes] at key
  exact ⟨key, pair⟩

theorem dispatchRow_of_match {k : Half} {r : RequestRow} (hr : r ∈ dispatchTable.take 6)
    (h : k &&& r.mask = r.pattern) (hk : k ≠ 0x01A2) : dispatchRow k = r.request := by
  rw [dispatchRow_eq_firstMatch_take]
  rcases firstMatch_cases k (dispatchTable.take 6) with ⟨taken, htaken, hmatch, heq⟩ | ⟨_, hnone⟩
  · have same : taken = r := by
      by_contra hne
      exact hk (overlap_of_match htaken hr hmatch h hne).1
    rw [heq, same]
  · exact absurd h (hnone r hr)

theorem dispatchRow_eq_fatal_iff (k : Half) :
    dispatchRow k = .fatal ↔ ∀ r ∈ dispatchTable.take 6, k &&& r.mask ≠ r.pattern := by
  rw [dispatchRow_eq_firstMatch_take]
  rcases firstMatch_cases k (dispatchTable.take 6) with ⟨taken, htaken, hmatch, heq⟩ | ⟨heq, hnone⟩
  · rw [heq]
    exact iff_of_false (handled_request_ne_fatal taken htaken) fun hnone => hnone taken htaken hmatch
  · exact iff_of_true heq hnone

/-- CLEAR_FEATURE's row stands before GET_REPORT's. -/
theorem dispatchRow_overlap : dispatchRow 0x01A2 = .clearFeature := by decide

/-- Settles O4: two rows that match one key have patterns that agree where both masks look, which the table allows for
one pair only; the first match of any other handled key is therefore its only match. -/
theorem dispatchRows : Obligations.DispatchRows :=
  ⟨fun r => halfOfBytes_eq_or_shift r.bmRequestType r.bRequest,
    fun _ _ _ hr hr' h h' hne => overlap_of_match hr hr' h h' hne,
    dispatchRow_overlap,
    fun _ _ hr h hk => dispatchRow_of_match hr h hk,
    dispatchRow_eq_fatal_iff⟩

/-! ## Fixed words -/

/-- Settles O3: each word is closed, so each equation is the decoder run on it, the four SETUP packets first (the second
of them has the overlap key) and then the operation codes with the operand bytes of log 4. -/
theorem decodeWords : Obligations.DecodeWords := by
  refine ⟨?setAddress, ?clearFeature, ?setIdle, ?unhandled, ?codes⟩
  case codes => exact ⟨rfl, rfl, rfl, rfl, rfl, rfl⟩
  all_goals rfl

end Sys2Proof.Machine
end

section
/-! PROOF. The port primitives and the host actions (40_port.md R150 to R176). A primitive of a running machine is its
effect on the port (`next_cpuOp`); an action at an attached device is its effect (`next_ifAttached`). What is left is
the order of the guards: dropped before PORT_MISUSE before the write (R153, R154, R156), and no answer before STALL
before the packet (R173, R174, R175). -/

namespace Sys2Proof.Machine

open Sys2Proof

/-! ## The guards of the two agents -/

theorem cpuOp_running {s : State} (running : s.halted = false) (f : State → State) : cpuOp f s = f s := by
  simp [cpuOp, running]

theorem next_cpuOp {f : State → State} {s t : State} (running : s.halted = false) (h : f s = t) :
    Host.Outcome.next (φ := Fault) (ρ := Refusal) (cpuOp f s) = .next t := by
  rw [cpuOp_running running, h]

theorem next_ifAttached {s t u : State} (attached : s.attached = true) (h : t = u) :
    Host.Outcome.next (φ := Fault) (ρ := Refusal) (if s.attached then t else s) = .next u := by
  rw [if_pos attached, h]

/-! ## Room in the bank (10_state.md R49, R153, R154, R156) -/

theorem Endpoint.wral_iff (x : Endpoint) :
    x.wral = true ↔ x.en = true ∧ x.committed.length < bankCount x.banks ∧ x.cur.length < x.size := by
  simp only [Endpoint.wral, Bool.and_eq_true, decide_eq_true_eq, and_assoc]

/-- The order of the three outcomes of a primitive that needs room. -/
theorem eq_ite_of_roomCases {en : Bool} {noRoom : Prop} [Decidable noRoom] {s t misuse written : State}
    (h : en = false ∧ t = s ∨ en = true ∧ noRoom ∧ t = misuse ∨ en = true ∧ ¬ noRoom ∧ t = written) :
    t = if en = false then s else if noRoom then misuse else written := by
  rcases h with ⟨off, rfl⟩ | ⟨on, full, rfl⟩ | ⟨on, room, rfl⟩
  · rw [if_pos off]
  · rw [if_neg (ne_false_of_eq_true on), if_pos full]
  · rw [if_neg (ne_false_of_eq_true on), if_neg room]

theorem portCommit_eq_ite (s : State) :
    portCommit s =
      if (s.ep s.epSel).en = false then s
      else if bankCount (s.ep s.epSel).banks ≤ (s.ep s.epSel).committed.length then
        raiseFault (.portMisuse .commit s.epSel) s
      else s.modEp s.epSel Endpoint.commitBank :=
  eq_ite_of_roomCases (by simpa only [Nat.not_le] using portCommit_cases s)

theorem portCommitClr_eq_ite (s : State) :
    portCommitClr s =
      if (s.ep s.epSel).en = false then s
      else if bankCount (s.ep s.epSel).banks ≤ (s.ep s.epSel).committed.length then
        raiseFault (.portMisuse .commitClr s.epSel) s
      else s.modEp s.epSel fun x => x.commitBank.clearDone :=
  eq_ite_of_roomCases (by simpa only [Nat.not_le] using portCommitClr_cases s)

theorem portFifoWrite_eq_ite (b : Byte) (s : State) :
    portFifoWrite b s =
      if (s.ep s.epSel).en = false then s
      else if bankCount (s.ep s.epSel).banks ≤ (s.ep s.epSel).committed.length ∨
          (s.ep s.epSel).size ≤ (s.ep s.epSel).cur.length then
        raiseFault (.portMisuse .fifoWrite s.epSel) s
      else s.modEp s.epSel fun x => { x with cur := x.cur ++ [b] } :=
  eq_ite_of_roomCases
    (by simpa only [Endpoint.wral_iff, not_or, Nat.not_le, and_assoc] using portFifoWrite_cases b s)

/-! ## FIFO_READ (R155) -/

theorem portFifoRead_cons {s : State} {b : Byte} {rest : List Byte} (h : (s.ep s.epSel).outbuf = b :: rest) :
    portFifoRead s = (b, s.modEp s.epSel fun x => { x with outbuf := rest }) := by
  rcases portFifoRead_cases s with ⟨empty, _⟩ | ⟨b', rest', holds, heq⟩
  · cases h.symm.trans empty
  · cases h.symm.trans holds
    exact heq

theorem portFifoRead_nil {s : State} (h : (s.ep s.epSel).outbuf = []) :
    portFifoRead s = (Config.emptyFifoByte s.draws, { s with draws := s.draws + 1 }) := by
  rcases portFifoRead_cases s with ⟨_, heq⟩ | ⟨b, rest, holds, _⟩
  · exact heq
  · cases h.symm.trans holds

/-! ## What a host action reaches (R170) -/

theorem State.answersTo_eq_false_iff (s : State) (a : DevAddr) :
    s.answersTo a = false ↔ a ≠ (if s.adden then s.devAddr else 0) := by
  rw [State.answersTo, beq_eq_false_iff_ne]

/-- Another address and a disabled endpoint are one case: the action reaches nothing. -/
theorem ite_unreached (a : DevAddr) (e : EpNum) (s noAnswer answer : State) :
    (if !s.answersTo a then noAnswer else if !(s.ep e).en then noAnswer else answer) =
      if a ≠ (if s.adden then s.devAddr else 0) ∨ (s.ep e).en = false then noAnswer else answer := by
  simp only [ite_or, Bool.not_eq_true', State.answersTo_eq_false_iff]

theorem hostBusReset_ep (s : State) (e : EpNum) : (hostBusReset s).ep e = (s.ep e).busReset := by
  simp only [hostBusReset, State.ep, Fin.getElem_fin, Vector.getElem_map]

theorem frame_succ (f : Frame) : f + 1 = BitVec.ofNat 11 ((f.toNat + 1) % 2 ^ 11) := by
  apply BitVec.eq_of_toNat_eq
  simp

theorem State.setupAllowed_iff (s : State) :
    s.setupAllowed = true ↔ (s.ce.phase = .idle ∨ s.ce.phase = .halted) ∧ (s.ep 0).rxstp = false := by
  simp only [State.setupAllowed, Bool.and_eq_true, Bool.or_eq_true, beq_iff_eq, Bool.not_eq_true']

theorem execHSetup_allowed {a : DevAddr} {p : List Byte} {s : State} (attached : s.attached = true)
    (allowed : s.setupAllowed = true) (hp : p.length = 8) : execHSetup a p s = .next (hostSetup a p s) := by
  simp [execHSetup, attached, allowed, hp]

theorem outTooLong_of_fits {a : DevAddr} {e : EpNum} {d : List Byte} {s : State} (fits : d.length ≤ (s.ep e).size) :
    outTooLong a e d s = false := by
  rw [outTooLong, decide_eq_false (Nat.not_lt.mpr fits), Bool.and_false]

theorem execHOut_fits {a : DevAddr} {e : EpNum} {d : List Byte} {s : State} (attached : s.attached = true)
    (fits : d.length ≤ (s.ep e).size) : execHOut a e d s = .next (hostOut a e d s) := by
  simp [execHOut, attached, outTooLong_of_fits fits]

/-! ## The port primitives -/

/-- Settles O6: each of the four is one update of one field, the read's answer among them. -/
theorem portSelectAndReads : Obligations.PortSelectAndReads := fun _ _ running =>
  ⟨next_cpuOp running rfl, next_cpuOp running rfl, next_cpuOp running rfl, next_cpuOp running rfl⟩

/-- Settles O7: each of the three writes one endpoint; TXRDY is derived from fields that ACK_SETUP does not write. -/
theorem portFlags : Obligations.PortFlags := by
  intro s running
  refine ⟨fun _ => ⟨_, next_cpuOp running rfl, rfl, ?txrdy⟩, next_cpuOp running rfl, next_cpuOp running rfl⟩
  case txrdy => rw [portAckSetup, State.ep_modEp, if_pos rfl]; rfl

/-- Settles O8: the outcomes of the two primitives in the order of R153's guards. -/
theorem portCommits : Obligations.PortCommits :=
  ⟨FaultRecord.code_portMisuse, fun s running =>
    ⟨next_cpuOp running (portCommit_eq_ite s), next_cpuOp running (portCommitClr_eq_ite s)⟩⟩

/-- Settles O9: FIFO_READ by whether OUTBUF holds a byte, FIFO_WRITE in the order of R156's guards. -/
theorem portFifo : Obligations.PortFifo := by
  intro c s running
  refine ⟨fun b rest holds => next_cpuOp running ?oldest,
    fun empty => ⟨Config.emptyFifoByte s.draws, s.draws + 1, next_cpuOp running ?free⟩,
    next_cpuOp running (portFifoWrite_eq_ite c s)⟩
  case oldest => rw [portFifoRead_cons holds]; rfl
  case free => rw [portFifoRead_nil empty]

/-- Settles O10: each of the five is one update, of one endpoint or of the device registers. -/
theorem portConfiguration : Obligations.PortConfiguration := fun _ _ _ running =>
  ⟨next_cpuOp running rfl, fun _ => next_cpuOp running rfl, next_cpuOp running rfl, next_cpuOp running rfl,
    next_cpuOp running rfl⟩

/-! ## The host actions -/

/-- Settles O11: the bus reset endpoint by endpoint; FRAME's 11-bit addition is the one modulo 2048 of R172. -/
theorem hostBusEvents : Obligations.HostBusEvents := by
  intro s attached
  refine ⟨⟨hostBusReset s, next_ifAttached attached rfl, rfl, hostBusReset_ep s⟩, next_ifAttached attached ?sof,
    next_ifAttached attached rfl⟩
  case sof => rw [hostSof, frame_succ]

/-- Settles O12: under the guard the action is its effect, which answers unless it reaches nothing. -/
theorem hostSetup_guarded : Obligations.HostSetup := fun a _ s attached phase noUnread hp =>
  (execHSetup_allowed attached ((State.setupAllowed_iff s).mpr ⟨phase, noUnread⟩) hp).trans
    (congrArg _ (ite_unreached a 0 s _ _))

/-- Settles O13: the chains of R174 and R175 behind the one test of what the action reaches. -/
theorem hostInAndOut : Obligations.HostInAndOut :=
  ⟨fun a e s attached => next_ifAttached attached (ite_unreached a e s _ _),
    fun a e _ s attached fits => (execHOut_fits attached fits).trans (congrArg _ (ite_unreached a e s _ _))⟩

end Sys2Proof.Machine
end

section
/-! PROOF. DEV_ISR and EORST_HANDLER (41_enumeration.md R201, R202). A position of DEV_ISR's lines runs in a bounded
number of lines to its end or to the halt, so what is left of `lineBound` does not matter (`runLines_dev_fuel`), and no
line reads or writes the handler's position (`runLines_atIsrPc`), so a procedure run inside the interrupt does what it
does as an operation of its own. -/

namespace Sys2Proof.Machine

open Sys2Proof

/-! ## EORST_HANDLER (R202) -/

/-- Endpoint 0 after EP0_INIT and ARM_SETUP_IRQ (40_port.md R160, R165). -/
def Endpoint.endOfReset (x : Endpoint) : Endpoint := { x.initControl with rxstpe := true }

/-- The state after EORST_HANDLER. -/
def endOfResetState (s : State) : State :=
  { s.modEp 0 Endpoint.endOfReset with epSel := 0, usbConfiguration := 0 }

theorem endOfResetState_ep (s : State) : (endOfResetState s).ep 0 = (s.ep 0).endOfReset :=
  (State.ep_modEp s 0 0 _).trans (if_pos rfl)

theorem runLines_eorst (n : Nat) (ls : List Line) {s : State} (running : s.halted = false) :
    runLines (n + 4) (eorstCode ++ ls) s = runLines n ls (endOfResetState s) := by
  have update : portArmSetupIrq (portEp0Init (portSelect 0 s)) =
      (portSelect 0 s).modEp 0 Endpoint.endOfReset := State.modEp_modEp ..
  simp only [eorstCode, List.cons_append, List.nil_append]
  iterate 4
    rw [runLines_line (by exact running) rfl rfl (by simp)]
    simp only [lineStep, List.nil_append]
  rw [update]
  rfl

theorem perform_eorst {s : State} (running : s.halted = false) : perform eorstCode s = endOfResetState s :=
  perform_done running ((runLines_eorst 1020 [] running).trans (runLines_nil _ _))

theorem endOfResetState_idem (s : State) : endOfResetState (endOfResetState s) = endOfResetState s := by
  have initialised : (endOfResetState s).modEp 0 Endpoint.endOfReset = endOfResetState s :=
    State.modEp_id _ _ _ (by rw [endOfResetState_ep]; rfl)
  rw [endOfResetState, initialised]
  rfl

/-- Settles O26: the four lines are one update, which a second run repeats; after the halt there is no run. -/
theorem endOfReset : Obligations.EndOfReset := by
  refine ⟨fun s running => congrArg _ (perform_eorst running), fun s t h => ?_⟩
  obtain rfl : perform eorstCode s = t := Host.Outcome.next.inj h
  refine congrArg Host.Outcome.next ?_
  cases hh : s.halted
  · rw [perform_eorst hh, perform_eorst (s := endOfResetState s) hh, endOfResetState_idem]
  · rw [perform_halted hh, perform_halted hh]

/-! ## Runs of lines and how many lines may run -/

theorem runLines_ended {n : Nat} {ls : List Line} {s : State} (h : ls = [] ∨ s.halted = true) :
    runLines n ls s = (s, ls) := by
  cases n with
  | zero => rfl
  | succ n =>
    rcases h with rfl | halted
    · rfl
    · cases ls with
      | nil => rfl
      | cons l ls => exact runLines_stop (by simp [halted])

/-- The most lines that a line of DEV_ISR's program comes to, with those it puts in front (R201, 43_report.md R290,
R292). -/
def devCost : Line → Nat
  | .readDevint => 35
  | .tickConfiguration => 29
  | .tickRate => 28
  | .tickDivide => 27
  | .tickDivided => 25
  | .tickCount => 24
  | .tickCompare => 22
  | .tickCompareRate _ => 21
  | .autoStatus => 18
  | .readReport _ => 2
  | _ => 1

/-- The most lines that a position of DEV_ISR comes to. -/
def devCosts (ls : List Line) : Nat := (ls.map devCost).sum

theorem devCost_pos (l : Line) : 0 < devCost l := by
  unfold devCost
  split <;> omega

theorem devCosts_cons (l : Line) (ls : List Line) : devCosts (l :: ls) = devCost l + devCosts ls := by
  simp [devCosts]

theorem devCosts_append (ls ls' : List Line) : devCosts (ls ++ ls') = devCosts ls + devCosts ls' := by
  simp [devCosts]

/-- A line of DEV_ISR's program is never waited in, and what it puts in front is of the same program and costs less. -/
structure DevLineRuns (l : Line) (s : State) : Prop where
  notHeld : held l s = false
  noPause : pauses l = false
  ne_delay : l ≠ .delay
  expands : (lineStep l s).2.all devLine = true ∧ devCosts (lineStep l s).2 < devCost l

theorem devLineRuns {l : Line} (h : devLine l = true) (s : State) : DevLineRuns l s := by
  cases l
  case readDevint =>
    refine ⟨rfl, rfl, by simp, ?_⟩
    simp only [lineStep, devIsrNext]
    split <;> split <;> exact ⟨rfl, of_decide_eq_true rfl⟩
  case tickConfiguration | tickRate | tickDivided | tickCompareRate | autoStatus =>
    refine ⟨rfl, rfl, by simp, ?_⟩
    simp only [lineStep]
    split <;> exact ⟨rfl, of_decide_eq_true rfl⟩
  case tickDivide | tickCount | tickCompare | readReport =>
    exact ⟨rfl, rfl, by simp, rfl, of_decide_eq_true rfl⟩
  case clearDevint | select | selectReport | ep0Init | armSetupIrq | setUsbConfiguration | setIdleCounter | setSofDiv
      | setTickCount | fifoWrite | commitClr =>
    exact ⟨rfl, rfl, by simp, rfl, Nat.zero_lt_one⟩
  all_goals cases h

/-- A position of DEV_ISR's lines runs to its end or to the halt, and its cost bounds the lines that takes. -/
theorem runLines_dev_ends {n : Nat} {ls : List Line} {s : State} (own : ls.all devLine = true) (h : devCosts ls ≤ n) :
    ∃ t ls', (ls' = [] ∨ t.halted = true) ∧ ∀ k, runLines (n + k) ls s = (t, ls') := by
  induction n generalizing ls s with
  | zero =>
    cases ls with
    | nil => exact ⟨s, [], .inl rfl, fun k => runLines_nil _ s⟩
    | cons l ls =>
      have pos := devCost_pos l
      rw [devCosts_cons] at h
      omega
  | succ n ih =>
    cases ls with
    | nil => exact ⟨s, [], .inl rfl, fun k => runLines_nil _ s⟩
    | cons l ls =>
      cases running : s.halted
      case true => exact ⟨s, l :: ls, .inr running, fun k => runLines_ended (.inr running)⟩
      case false =>
        rw [List.all_cons, Bool.and_eq_true] at own
        obtain ⟨ownLine, ownRest⟩ := own
        have line := devLineRuns ownLine s
        obtain ⟨ownNext, cheaper⟩ := line.expands
        rw [devCosts_cons] at h
        obtain ⟨t, ls', ended, hrun⟩ := ih (ls := (lineStep l s).2 ++ ls) (s := (lineStep l s).1)
          (by rw [List.all_append, ownNext, ownRest]; rfl) (by rw [devCosts_append]; omega)
        refine ⟨t, ls', ended, fun k => ?_⟩
        rw [Nat.add_right_comm, runLines_line running line.notHeld line.noPause line.ne_delay, hrun]

/-- Any two sufficient numbers of lines give one result. -/
theorem runLines_dev_fuel {m n : Nat} {ls : List Line} {s : State} (own : ls.all devLine = true)
    (hm : devCosts ls ≤ m) (hn : devCosts ls ≤ n) : runLines m ls s = runLines n ls s := by
  obtain ⟨t, ls', _, hrun⟩ := runLines_dev_ends (s := s) own (Nat.le_refl _)
  rw [← Nat.add_sub_of_le hm, ← Nat.add_sub_of_le hn, hrun, hrun]

/-! ## The handler's position does not matter to its lines -/

/-- The state with the handler at another position. -/
def State.atIsrPc (s : State) (pc : List Line) : State := { s with isrPc := pc }

theorem portCommit_atIsrPc (s : State) (pc : List Line) :
    portCommit (s.atIsrPc pc) = (portCommit s).atIsrPc pc := by
  simp only [portCommit_eq_ite, apply_ite (State.atIsrPc · pc)]
  rfl

theorem portCommitClr_atIsrPc (s : State) (pc : List Line) :
    portCommitClr (s.atIsrPc pc) = (portCommitClr s).atIsrPc pc := by
  simp only [portCommitClr_eq_ite, apply_ite (State.atIsrPc · pc)]
  rfl

theorem portFifoWrite_atIsrPc (b : Byte) (s : State) (pc : List Line) :
    portFifoWrite b (s.atIsrPc pc) = (portFifoWrite b s).atIsrPc pc := by
  simp only [portFifoWrite_eq_ite, apply_ite (State.atIsrPc · pc)]
  rfl

theorem lineStep_atIsrPc (l : Line) (s : State) (pc : List Line) :
    lineStep l (s.atIsrPc pc) = ((lineStep l s).1.atIsrPc pc, (lineStep l s).2) := by
  cases l
  case commit => exact congrArg (·, []) (portCommit_atIsrPc s pc)
  case commitClr => exact congrArg (·, []) (portCommitClr_atIsrPc s pc)
  case fifoWrite b => exact congrArg (·, []) (portFifoWrite_atIsrPc b s pc)
  case intakeByte i =>
    rcases portFifoRead_cases s with ⟨empty, h⟩ | ⟨b, rest, holds, h⟩
    · rw [lineStep, lineStep, h, portFifoRead_nil (s := s.atIsrPc pc) empty]; rfl
    · rw [lineStep, lineStep, h, portFifoRead_cons (s := s.atIsrPc pc) holds]; rfl
  case sample raw => cases raw <;> rfl
  all_goals rfl

theorem held_atIsrPc (l : Line) (s : State) (pc : List Line) : held l (s.atIsrPc pc) = held l s := by
  cases l <;> rfl

theorem runLines_atIsrPc (n : Nat) (ls : List Line) (s : State) (pc : List Line) :
    runLines n ls (s.atIsrPc pc) = ((runLines n ls s).1.atIsrPc pc, (runLines n ls s).2) := by
  induction n generalizing ls s with
  | zero => rfl
  | succ n ih =>
    cases ls with
    | nil => rfl
    | cons l ls =>
      have hhalted : (s.atIsrPc pc).halted = s.halted := rfl
      simp only [runLines, hhalted, held_atIsrPc, lineStep_atIsrPc, ih]
      split
      · rfl
      · split <;> rfl

/-! ## DEV_ISR (R201) -/

/-- DEV_ISR entered, with its snapshot taken and the event flags cleared. -/
def devIsrCleared (s : State) : State :=
  { s with ie := false, ctx := .devIsr, isrPc := [], eorst := false, sof := false, other := false }

theorem State.park_devIsr {s : State} (hc : s.ctx = .devIsr) (hpc : s.isrPc = []) (ls : List Line) :
    s.park ls = s.atIsrPc ls := by
  simp only [State.park, State.atIsrPc, hc, hpc, List.append_nil]

/-- A procedure of DEV_ISR as an operation of its own (log 6): what is left of it stands at the handler's position. -/
theorem perform_dev {ls ls' : List Line} {s t : State} (hc : s.ctx = .devIsr) (hpc : s.isrPc = [])
    (running : s.halted = false) (hrun : runLines lineBound ls s = (t, ls')) : perform ls s = t.atIsrPc ls' := by
  have frame := runLines_frame lineBound ls s
  rw [hrun] at frame
  rw [perform_parked running hrun, State.park_devIsr (frame.ctx.trans hc) (frame.isrPc.trans hpc)]

/-- EORST_HANDLER where the snapshot asks for it. -/
theorem runLines_resetPart {n : Nat} (eorst : Bool) {ls : List Line} {s : State} (running : s.halted = false)
    (own : ls.all devLine = true) (h : devCosts ls ≤ n) :
    runLines (n + 4) ((if eorst then eorstCode else []) ++ ls) s =
      runLines n ls (if eorst then endOfResetState s else s) := by
  cases eorst
  · exact runLines_dev_fuel own (Nat.le_add_right_of_le h) h
  · exact runLines_eorst n ls running

/-- AUTO_TICK where the snapshot asks for it. -/
def tickPart (sof : Bool) : List Line := if sof then autoTickCode else []

theorem tickPart_own (sof : Bool) : (tickPart sof).all devLine = true := by cases sof <;> rfl

theorem devCosts_tickPart (sof : Bool) : devCosts (tickPart sof) ≤ 29 := by cases sof <;> decide

/-- The state DEV_ISR comes to before AUTO_TICK. -/
def afterResetPart (s : State) : State := if s.eorst then endOfResetState (devIsrCleared s) else devIsrCleared s

theorem afterResetPart_ctx (s : State) : (afterResetPart s).ctx = .devIsr := by unfold afterResetPart; split <;> rfl

theorem afterResetPart_isrPc (s : State) : (afterResetPart s).isrPc = [] := by unfold afterResetPart; split <;> rfl

theorem afterResetPart_halted (s : State) : (afterResetPart s).halted = s.halted := by
  unfold afterResetPart; split <;> rfl

/-- The handler's body from its entry comes to AUTO_TICK's part, run from the state EORST_HANDLER's part leaves. -/
theorem runLines_devIsr {s : State} (running : s.halted = false) :
    runLines lineBound devIsrCode (interruptEntry .devIsr s) =
      ((runLines lineBound (tickPart s.sof) (afterResetPart s)).1.atIsrPc devIsrCode,
        (runLines lineBound (tickPart s.sof) (afterResetPart s)).2) := by
  have cost := devCosts_tickPart s.sof
  calc runLines lineBound devIsrCode (interruptEntry .devIsr s)
      = runLines 1023 (devIsrNext s.events) (interruptEntry .devIsr s) := by
        rw [lineBound, devIsrCode, runLines_line (by exact running) rfl rfl (by simp)]
        simp only [lineStep, List.append_nil]
        rfl
    _ = runLines 1022 ((if s.eorst then eorstCode else []) ++ tickPart s.sof)
          ((devIsrCleared s).atIsrPc devIsrCode) := by
        rw [devIsrNext, runLines_line (by exact running) rfl rfl (by simp)]
        rfl
    _ = ((runLines lineBound (tickPart s.sof) (afterResetPart s)).1.atIsrPc devIsrCode,
          (runLines lineBound (tickPart s.sof) (afterResetPart s)).2) := by
        rw [runLines_atIsrPc, runLines_resetPart (n := 1018) s.eorst (s := devIsrCleared s) running (tickPart_own _)
          (by omega), afterResetPart,
          runLines_dev_fuel (n := lineBound) (tickPart_own _) (by omega) (by rw [lineBound]; omega)]

/-- What the interrupt as a whole does with a body that ends or halts (R374, R375). -/
theorem takeInterrupt_of_ended {c : Ctx} {s t : State} {ls : List Line} (enter : s.canEnter c = true)
    (hrun : runLines lineBound (handlerCode c) (interruptEntry c s) = (t, ls)) (ended : ls = [] ∨ t.halted = true) :
    takeInterrupt c s = if t.halted then t.atIsrPc ls else returnFromInterrupt t := by
  rcases takeInterrupt_cases c s with ⟨no, _⟩ | ⟨_, u, ls', hrun', hend⟩
  · cases enter.symm.trans no
  · obtain ⟨rfl, rfl⟩ := Prod.mk.inj (hrun.symm.trans hrun')
    rcases hend with ⟨_, running, heq⟩ | ⟨stopped, heq⟩
    · rw [heq, if_neg (by simp [running])]
    · have halted : t.halted = true := stopped.elim (fun left => ended.resolve_left left) id
      rw [heq, if_pos halted]
      rfl

/-- Settles O30: the handler's body is EORST_HANDLER's part and then AUTO_TICK's, which ends or halts. -/
theorem devIsr : Obligations.DevIsr := by
  intro s enter
  have running := State.halted_of_canEnter enter
  obtain ⟨t, ls, ended, hrun⟩ := runLines_dev_ends (n := lineBound) (s := afterResetPart s) (tickPart_own s.sof)
    ((devCosts_tickPart s.sof).trans (by decide))
  have part : runLines lineBound (tickPart s.sof) (afterResetPart s) = (t, ls) := hrun 0
  have body := runLines_devIsr running
  rw [part] at body
  refine ⟨afterResetPart s, t.atIsrPc ls, ?reset, ?tick, ?whole⟩
  case reset =>
    unfold afterResetPart
    split
    · exact congrArg Host.Outcome.next (perform_eorst (s := devIsrCleared s) running)
    · rfl
  case tick =>
    have ticked := perform_dev (afterResetPart_ctx s) (afterResetPart_isrPc s)
      ((afterResetPart_halted s).trans running) part
    rw [← ticked]
    unfold tickPart
    split
    · rfl
    · rw [perform_done ((afterResetPart_halted s).trans running) (runLines_nil _ _)]
  case whole =>
    exact congrArg Host.Outcome.next (takeInterrupt_of_ended (t := t.atIsrPc devIsrCode) (ls := ls) enter body ended)

end Sys2Proof.Machine
end

section
/-! PROOF. The enumeration state (10_state.md R51, 41_enumeration.md R205) is a function of the attachment, endpoint 0's
enable and `usb_configuration` (`SameEnum`). Of the CPU's lines few write one of the three or lead to one that does
(`keepsEnum` leaves them out), so an operation whose lines are all others keeps the state. -/

namespace Sys2Proof.Machine

open Sys2Proof

/-! ## What the enumeration state is a function of -/

/-- The same attachment, the same enable of endpoint 0 and the same `usb_configuration`. -/
structure SameEnum (s t : State) : Prop where
  attached : t.attached = s.attached
  enabled : (t.ep 0).en = (s.ep 0).en
  usbConfiguration : t.usbConfiguration = s.usbConfiguration

theorem SameEnum.refl (s : State) : SameEnum s s := ⟨rfl, rfl, rfl⟩

theorem SameEnum.trans {s t u : State} (h : SameEnum s t) (h' : SameEnum t u) : SameEnum s u :=
  ⟨h'.attached.trans h.attached, h'.enabled.trans h.enabled, h'.usbConfiguration.trans h.usbConfiguration⟩

theorem SameEnum.enumState_eq {s t : State} (h : SameEnum s t) : t.enumState = s.enumState := by
  simp only [State.enumState, h.attached, h.enabled, h.usbConfiguration]

/-- Enumerated: attached, endpoint 0 enabled, and configured with `cfg`. -/
structure EnumeratedAs (cfg : Byte) (s : State) : Prop where
  attached : s.attached = true
  enabled : (s.ep 0).en = true
  usbConfiguration : s.usbConfiguration = cfg

theorem EnumeratedAs.enumState_eq {cfg : Byte} {s : State} (h : EnumeratedAs cfg s) :
    s.enumState = if cfg = 0 then .addressed else .configured := by
  simp [State.enumState, h.attached, h.enabled, h.usbConfiguration]

theorem EnumeratedAs.of_sameEnum {cfg : Byte} {s t : State} (h : EnumeratedAs cfg s) (same : SameEnum s t) :
    EnumeratedAs cfg t :=
  ⟨same.attached.trans h.attached, same.enabled.trans h.enabled, same.usbConfiguration.trans h.usbConfiguration⟩

theorem enumState_resetPending {s : State} (attached : s.attached = true) (off : (s.ep 0).en = false) :
    s.enumState = .resetPending := by
  simp [State.enumState, attached, off]

/-! ## The port and the host's actions -/

theorem modEp_sameEnum {s : State} {e : EpNum} {f : Endpoint → Endpoint} (hf : ∀ x, (f x).en = x.en) :
    SameEnum s (s.modEp e f) := by
  refine ⟨rfl, ?_, rfl⟩
  rw [State.ep_modEp]
  split
  next h => rw [hf, h]
  next => rfl

theorem portCommit_sameEnum (s : State) : SameEnum s (portCommit s) := by
  rcases portCommit_cases s with ⟨_, h⟩ | ⟨_, _, h⟩ | ⟨_, _, h⟩ <;> rw [h]
  · exact .refl s
  · exact ⟨rfl, rfl, rfl⟩
  · exact modEp_sameEnum fun _ => rfl

theorem portCommitClr_sameEnum (s : State) : SameEnum s (portCommitClr s) := by
  rcases portCommitClr_cases s with ⟨_, h⟩ | ⟨_, _, h⟩ | ⟨_, _, h⟩ <;> rw [h]
  · exact .refl s
  · exact ⟨rfl, rfl, rfl⟩
  · exact modEp_sameEnum fun _ => rfl

theorem portFifoWrite_sameEnum (b : Byte) (s : State) : SameEnum s (portFifoWrite b s) := by
  rcases portFifoWrite_cases b s with ⟨_, h⟩ | ⟨_, _, h⟩ | ⟨_, h⟩ <;> rw [h]
  · exact .refl s
  · exact ⟨rfl, rfl, rfl⟩
  · exact modEp_sameEnum fun _ => rfl

theorem portFifoRead_sameEnum (s : State) : SameEnum s (portFifoRead s).2 := by
  rcases portFifoRead_cases s with ⟨_, h⟩ | ⟨b, rest, _, h⟩ <;> rw [h]
  · exact ⟨rfl, rfl, rfl⟩
  · exact modEp_sameEnum (f := fun x => { x with outbuf := rest }) fun _ => rfl

theorem hostSees_sameEnum {s t : State} (e : EpNum) (o : HostOutcome) (h : SameEnum s t) :
    SameEnum s (hostSees e o t) := h.trans ⟨rfl, rfl, rfl⟩

theorem hostSetup_sameEnum (a : DevAddr) (p : List Byte) (s : State) : SameEnum s (hostSetup a p s) := by
  unfold hostSetup
  repeat' split
  · exact hostSees_sameEnum _ _ (.refl s)
  · exact hostSees_sameEnum _ _ (.refl s)
  · exact hostSees_sameEnum _ _ (modEp_sameEnum fun _ => rfl)

theorem hostIn_sameEnum (a : DevAddr) (e : EpNum) (s : State) : SameEnum s (hostIn a e s) := by
  unfold hostIn
  repeat' split
  · exact hostSees_sameEnum _ _ (.refl s)
  · exact hostSees_sameEnum _ _ (.refl s)
  all_goals exact hostSees_sameEnum _ _ (modEp_sameEnum fun _ => rfl)

theorem hostOut_sameEnum (a : DevAddr) (e : EpNum) (d : List Byte) (s : State) : SameEnum s (hostOut a e d s) := by
  unfold hostOut
  repeat' split
  · exact hostSees_sameEnum _ _ (.refl s)
  · exact hostSees_sameEnum _ _ (.refl s)
  · exact hostSees_sameEnum _ _ (modEp_sameEnum fun _ => rfl)
  · exact hostSees_sameEnum _ _ (modEp_sameEnum fun _ => rfl)
  · exact hostSees_sameEnum _ _ (.refl s)

theorem ifAttached_sameEnum {s t : State} (h : SameEnum s t) : SameEnum s (if s.attached then t else s) := by
  split
  · exact h
  · exact .refl s

/-! ## The CPU's lines -/

/-- The lines that neither write what the enumeration state is a function of nor lead to such a line. -/
def keepsEnum : Line → Bool
  | .setUsbConfiguration _ => false
  | .epConfigure _ => false
  | .ep0Init => false
  | .attach => false
  | .boot => false
  | .readDevint => false
  | .setupStatus => false
  | .dispatch => false
  | .dispatchOn _ => false
  | .operand r _ => r != .setConfiguration
  | _ => true

theorem lineStep_sameEnum {l : Line} (h : keepsEnum l = true) (s : State) : SameEnum s (lineStep l s).1 := by
  cases l
  case setUsbConfiguration | epConfigure | ep0Init | attach | boot | readDevint | setupStatus | dispatch | dispatchOn =>
    cases h
  case commit => exact portCommit_sameEnum s
  case commitClr => exact portCommitClr_sameEnum s
  case fifoWrite b => exact portFifoWrite_sameEnum b s
  case intakeByte => exact portFifoRead_sameEnum s
  case ackSetup | stall | epReset | armSetupIrq =>
    simp only [lineStep, portAckSetup, portStall, portEpReset, portArmSetupIrq]
    exact modEp_sameEnum fun _ => rfl
  case sample raw => cases raw <;> exact ⟨rfl, rfl, rfl⟩
  all_goals exact ⟨rfl, rfl, rfl⟩

/-- SET_CONFIGURATION is the only request that writes `usb_configuration` or configures an endpoint (R234). -/
theorem handlerBody_keepsEnum {r : Request} (hr : r ≠ .setConfiguration) (p : Params) (got : List Byte) :
    (handlerBody p r got).all keepsEnum = true := by
  cases r
  case setConfiguration => exact absurd rfl hr
  case clearFeature => simp only [handlerBody, clearFeatureCode]; split <;> rfl
  case getDescriptor => simp only [handlerBody, getDescriptorCode]; split <;> rfl
  all_goals rfl

theorem handlerFrom_keepsEnum {r : Request} (hr : r ≠ .setConfiguration) (p : Params) (got : List Byte) :
    (handlerFrom p r got).all keepsEnum = true := by
  unfold handlerFrom
  split
  · simp [keepsEnum, hr]
  · exact handlerBody_keepsEnum hr p got

theorem dispatchCode_keepsEnum {r : Request} (hr : r ≠ .setConfiguration) (p : Params) :
    (dispatchCode p r).all keepsEnum = true := by
  have handler : (requestCode p r).all keepsEnum = true := handlerFrom_keepsEnum hr p []
  unfold dispatchCode
  split
  · exact handler
  · rw [List.all_append, handler]; rfl

theorem fillBankCode_keepsEnum (n : Nat) : (fillBankCode n).all keepsEnum = true := by
  simp [fillBankCode, keepsEnum]

theorem lineStep_expands_keepsEnum {l : Line} (h : keepsEnum l = true) (s : State) :
    (lineStep l s).2.all keepsEnum = true := by
  cases l
  case setUsbConfiguration | epConfigure | ep0Init | attach | boot | readDevint | setupStatus | dispatch | dispatchOn =>
    cases h
  case operand r got => exact handlerFrom_keepsEnum (bne_iff_ne.mp h) s.params _
  case cwFill => exact fillBankCode_keepsEnum _
  case descLength => simp only [lineStep, sendDescriptorCode]; split <;> rfl
  case cwSource => simp only [lineStep, sourceCode]; split <;> rfl
  case decodeByte => simp only [lineStep, decodeFrom]; split <;> rfl
  case remapReport => simp only [lineStep, remapFrom]; split <;> rfl
  case sendPoll | sendPollAgain => simp only [lineStep, sendPollNext]; split <;> rfl
  case tickConfiguration | tickRate | tickDivided | tickCompareRate | autoStatus | cwWait | cwLoop | delay | syncCheck
      | sendEntry | sendConfiguration | sendExpired => simp only [lineStep]; split <;> rfl
  case sample raw => cases raw <;> rfl
  all_goals rfl

/-! ## Operations as a whole -/

theorem runLines_sameEnum (n : Nat) {ls : List Line} (h : ls.all keepsEnum = true) (s : State) :
    SameEnum s (runLines n ls s).1 :=
  (runLines_invariant (SameEnum s) (keepsEnum · = true)
    (fun _ t hl _ _ same =>
      ⟨same.trans (lineStep_sameEnum hl t), List.all_eq_true.mp (lineStep_expands_keepsEnum hl t)⟩)
    n ls s (List.all_eq_true.mp h) (.refl s)).1

theorem park_sameEnum (s : State) (ls : List Line) : SameEnum s (s.park ls) := by
  unfold State.park
  split <;> exact ⟨rfl, rfl, rfl⟩

theorem perform_sameEnum {ls : List Line} (h : ls.all keepsEnum = true) (s : State) : SameEnum s (perform ls s) := by
  cases hh : s.halted
  · rw [perform_parked hh rfl]
    exact (runLines_sameEnum _ h s).trans (park_sameEnum _ _)
  · rw [perform_halted hh]
    exact .refl s

theorem cpuOp_sameEnum {f : State → State} {s : State} (h : SameEnum s (f s)) : SameEnum s (cpuOp f s) := by
  unfold cpuOp
  split
  · exact .refl s
  · exact h

/-- An operation whose effect is that of one line. -/
theorem cpuOp_line_sameEnum {l : Line} (h : keepsEnum l = true) (s : State) :
    SameEnum s (cpuOp (fun s => (lineStep l s).1) s) := cpuOp_sameEnum (lineStep_sameEnum h s)

/-- An operation that only answers a value. -/
theorem cpuOp_ret_sameEnum (v : State → Ret) (s : State) : SameEnum s (cpuOp (fun s => { s with ret := v s }) s) :=
  cpuOp_sameEnum ⟨rfl, rfl, rfl⟩

theorem runRequest_sameEnum {r : Request} (hr : r ≠ .setConfiguration) (i : Instr) (s : State) :
    SameEnum s (runRequest i r s) := by
  have request : SameEnum s (withRequest i s) := ⟨rfl, rfl, rfl⟩
  exact cpuOp_sameEnum (request.trans (perform_sameEnum (dispatchCode_keepsEnum hr s.params) _))

/-- The operations that R205's table does not name and that contain none it names. -/
def leavesEnum : Instr → Prop
  | .hBusReset | .eorstHandler | .setConfiguration _ _ | .devIsr | .epIsr | .ep0Init | .epConfigure _ => False
  | _ => True

theorem exec_sameEnum {i : Instr} {s t : State} (hl : leavesEnum i) (hi : exec i s = .next t) : SameEnum s t := by
  cases i
  case hBusReset | eorstHandler | setConfiguration | devIsr | epIsr | ep0Init | epConfigure => exact hl.elim
  case setAddress | clearFeature | setIdle | getDescriptor | getReport | fatalUnhandled =>
    cases hi; exact runRequest_sameEnum (by decide) _ s
  case autoTick | autoWrite | setupIntake | ctrlFifoWrite | send | reportUpdate | decode | pollCycle =>
    cases hi; exact perform_sameEnum rfl s
  case descSearch v x => cases hi; exact cpuOp_ret_sameEnum (fun s => .entry (descSearch s.params v x)) s
  case syncCheck => cases hi; exact cpuOp_ret_sameEnum (fun s => .flag (syncOk (memRead s.raw 0))) s
  case remap c => cases hi; exact cpuOp_ret_sameEnum (fun s => .report (remapOf s.params c)) s
  case vote n => cases hi; exact cpuOp_ret_sameEnum (fun _ => .flag (voteNibble n)) s
  case decodeRawByte b => cases hi; exact cpuOp_ret_sameEnum (fun _ => .bits (rawBits b).1 (rawBits b).2) s
  case decodeGroup raw k =>
    simp only [exec, execDecodeGroup] at hi
    split at hi
    · cases hi; exact cpuOp_ret_sameEnum (fun _ => .byte (groupOf raw k)) s
    · cases hi
  case readStatus => cases hi; exact cpuOp_ret_sameEnum (fun s => .status (s.ep s.epSel).status) s
  case readFrame => cases hi; exact cpuOp_ret_sameEnum (fun s => .frame s.frame) s
  case readDevint => cases hi; exact cpuOp_ret_sameEnum (fun s => .events s.events) s
  case select e => cases hi; exact cpuOp_line_sameEnum (l := .select e) rfl s
  case ackSetup => cases hi; exact cpuOp_line_sameEnum (l := .ackSetup) rfl s
  case commit => cases hi; exact cpuOp_line_sameEnum (l := .commit) rfl s
  case commitClr => cases hi; exact cpuOp_line_sameEnum (l := .commitClr) rfl s
  case fifoRead => cases hi; exact cpuOp_sameEnum ((portFifoRead_sameEnum s).trans ⟨rfl, rfl, rfl⟩)
  case fifoWrite b => cases hi; exact cpuOp_line_sameEnum (l := .fifoWrite b) rfl s
  case stall => cases hi; exact cpuOp_line_sameEnum (l := .stall) rfl s
  case epReset => cases hi; exact cpuOp_line_sameEnum (l := .epReset) rfl s
  case setDevaddr a => cases hi; exact cpuOp_line_sameEnum (l := .setDevaddr a) rfl s
  case clearDevint => cases hi; exact cpuOp_line_sameEnum (l := .clearDevint) rfl s
  case armSetupIrq => cases hi; exact cpuOp_line_sameEnum (l := .armSetupIrq) rfl s
  case hSof => cases hi; exact ifAttached_sameEnum ⟨rfl, rfl, rfl⟩
  case hDeveventOther => cases hi; exact ifAttached_sameEnum ⟨rfl, rfl, rfl⟩
  case hIn a e => cases hi; exact ifAttached_sameEnum (hostIn_sameEnum a e s)
  case hSetup a p =>
    simp only [exec, execHSetup] at hi
    split at hi
    · cases hi; exact .refl s
    · split at hi
      · cases hi
      · cases hi; exact hostSetup_sameEnum a p s
  case hOut a e d =>
    simp only [exec, execHOut] at hi
    split at hi
    · cases hi; exact .refl s
    · split at hi
      · cases hi
      · cases hi; exact hostOut_sameEnum a e d s

/-! ## SET_CONFIGURATION (42_control.md R234) -/

/-- An endpoint that is configured is enabled (40_port.md R159), so endpoint 0 stays so. -/
theorem epConfigure_enumeratedAs {cfg : Byte} {s : State} (c : EndpointConfig) (h : EnumeratedAs cfg s) :
    EnumeratedAs cfg (portEpConfigure c s) := by
  refine ⟨h.attached, ?_, h.usbConfiguration⟩
  rw [portEpConfigure, State.ep_modEp]
  split
  · rfl
  · exact h.enabled

/-- What SET_CONFIGURATION runs behind its write of `usb_configuration`. -/
def configuresOnly (l : Line) : Prop := keepsEnum l = true ∨ ∃ c, l = .epConfigure c

theorem configureCode_configuresOnly (p : Params) (e : EpNum) : ∀ l ∈ configureCode p e, configuresOnly l := by
  unfold configureCode
  split
  · split
    · simp [configuresOnly, keepsEnum]
    · simp
  · simp

theorem runLines_enumeratedAs {cfg : Byte} (n : Nat) {ls : List Line} {s : State} (hls : ∀ l ∈ ls, configuresOnly l)
    (h : EnumeratedAs cfg s) : EnumeratedAs cfg (runLines n ls s).1 := by
  refine (runLines_invariant (EnumeratedAs cfg) configuresOnly ?_ n ls s hls h).1
  rintro l t (keeps | ⟨c, rfl⟩) _ _ ht
  · exact ⟨ht.of_sameEnum (lineStep_sameEnum keeps t),
      fun l' hl' => .inl (List.all_eq_true.mp (lineStep_expands_keepsEnum keeps t) l' hl')⟩
  · exact ⟨epConfigure_enumeratedAs c ht, fun l' hl' => absurd hl' List.not_mem_nil⟩

/-- The lines of SET_CONFIGURATION behind its write of `usb_configuration`, with DISPATCH's end (R232). -/
def afterConfigured (p : Params) : List Line :=
  .commit :: (configureCode p 1 ++ configureCode p 2 ++ configureCode p 3 ++ configureCode p 4 ++ [.setPhase .idle])

theorem afterConfigured_configuresOnly (p : Params) : ∀ l ∈ afterConfigured p, configuresOnly l := by
  simp only [afterConfigured, List.forall_mem_cons, List.forall_mem_append]
  have entry := configureCode_configuresOnly p
  exact ⟨.inl rfl, ⟨⟨⟨entry 1, entry 2⟩, entry 3⟩, entry 4⟩, .inl rfl, fun _ h => absurd h List.not_mem_nil⟩

theorem dispatchCode_of_returns {r : Request} (hr : r ≠ .fatal) (p : Params) :
    dispatchCode p r = requestCode p r ++ [.setPhase .idle] := if_neg hr

theorem runLines_setConfiguration {s : State} (running : s.halted = false) :
    runLines lineBound (dispatchCode s.params .setConfiguration) s =
      runLines 1022 (afterConfigured s.params) { s with usbConfiguration := s.req.b2 } :=
  calc runLines lineBound (dispatchCode s.params .setConfiguration) s
      = runLines (1023 + 1) (requestCode s.params .setConfiguration ++ [.setPhase .idle]) s := by
        rw [dispatchCode_of_returns (by decide), lineBound]
    _ = runLines 1023 (.setUsbConfiguration s.req.b2 :: afterConfigured s.params) s := by
        have request := runLines_request 1023 .setConfiguration [.setPhase .idle] s running
        simpa [handlerBody, setConfigurationCode, afterConfigured, operandsOf, operandBytes, UsbRequest.bytes]
          using request
    _ = runLines 1022 (afterConfigured s.params) { s with usbConfiguration := s.req.b2 } :=
        runLines_line running rfl rfl (by simp)

theorem perform_setConfiguration_enumeratedAs {s : State} (attached : s.attached = true) (running : s.halted = false)
    (enabled : (s.ep 0).en = true) :
    EnumeratedAs s.req.b2 (perform (dispatchCode s.params .setConfiguration) s) := by
  have written : EnumeratedAs s.req.b2 { s with usbConfiguration := s.req.b2 } := ⟨attached, enabled, rfl⟩
  rw [perform_parked running (runLines_setConfiguration running)]
  exact (runLines_enumeratedAs 1022 (afterConfigured_configuresOnly s.params) written).of_sameEnum (park_sameEnum _ _)

theorem runRequest_setConfiguration_enumeratedAs {recipient : BitVec 5} {args : SetupArgs} {s : State}
    (attached : s.attached = true) (running : s.halted = false) (enabled : (s.ep 0).en = true) :
    EnumeratedAs args.wValue.lo (runRequest (.setConfiguration recipient args) .setConfiguration s) := by
  rw [runRequest, cpuOp_running running]
  exact perform_setConfiguration_enumeratedAs (s := withRequest (.setConfiguration recipient args) s)
    attached running enabled

/-! ## Boot's attach (70_reset_and_hazards.md R412) -/

theorem step_of_script_nil {s : State} (h : s.script = []) : step s = .next (cpuStep s) := by
  simp only [step, fetch, h]

/-- With `I` = 0 no interrupt is entered (60_exceptions.md R371), so MAIN goes on. -/
theorem cpuStep_main_disabled {s : State} (hm : s.ctx = .main) (hie : s.ie = false) (running : s.halted = false) :
    cpuStep s = mainStep s := by
  have noEntry : s.mayEnter = false :=
    Bool.eq_false_of_not_eq_true fun h => Bool.false_ne_true (hie.symm.trans (State.ie_of_mayEnter h))
  simp [cpuStep, running, hm, noEntry]

theorem mainStep_attach {s : State} {ls : List Line} (h : s.mainPc = .attach :: ls) :
    mainStep s = { s with attached := true, mainPc := ls } := by
  simp [mainStep, mainCode, h, held, lineStep]

/-- Settles O56: R205's events one by one, and every other operation keeps what the state is a function of. -/
theorem enumerationTransitions : Obligations.EnumerationTransitions := by
  refine ⟨?busReset, ?endOfReset, ?setConfiguration, ?attach, ?others⟩
  case busReset =>
    intro s t attached h
    obtain rfl := Host.Outcome.next.inj ((next_ifAttached attached rfl).symm.trans h)
    exact enumState_resetPending attached (congrArg Endpoint.en (hostBusReset_ep s 0))
  case endOfReset =>
    intro s t attached running h
    obtain rfl : perform eorstCode s = t := Host.Outcome.next.inj h
    rw [perform_eorst running]
    exact EnumeratedAs.enumState_eq (cfg := 0)
      ⟨attached, congrArg Endpoint.en (endOfResetState_ep s), rfl⟩
  case setConfiguration =>
    intro recipient args s t attached running enabled h
    obtain rfl := Host.Outcome.next.inj h
    exact (runRequest_setConfiguration_enumeratedAs attached running enabled).enumState_eq
  case attach =>
    intro s rest hm hie running hscript hpc off
    refine ⟨_, step_of_script_nil hscript, ?_⟩
    rw [cpuStep_main_disabled hm hie running, mainStep_attach hpc]
    exact enumState_resetPending rfl off
  case others => exact fun i s t hl hi => (exec_sameEnum (i := i) hl hi).enumState_eq

end Sys2Proof.Machine
end

section
/-! PROOF. The control-engine phase (10_state.md R37, 42_control.md R243). In a run of the block only EP_ISR's lines write
`ce.phase`. From SETUP_INTAKE on, EP_ISR's position ends with a line that ends DISPATCH (`leadsToEnd`): lines in front of
it leave it last, and when it runs it leads to another such line, halts, or sets the phase back with nothing left to
run. -/

namespace Sys2Proof.Machine

open Sys2Proof

/-! ## What a CPU step leaves of the schedule -/

theorem mainStep_script (s : State) : (mainStep s).script = s.script := by
  rcases mainStep_cases s with heq | ⟨l, ls, _, _, heq⟩ <;> rw [heq]
  exact (lineStep_frame l s).script

theorem isrStep_script (s : State) : (isrStep s).script = s.script := by
  rcases isrStep_cases s with ⟨_, heq⟩ | heq | ⟨l, ls, _, _, heq⟩ <;> rw [heq]
  · rfl
  · exact (lineStep_frame l s).script

theorem cpuStep_script (s : State) : (cpuStep s).script = s.script := by
  rcases cpuStep_cases s with ⟨_, heq⟩ | ⟨_, _, heq⟩ | ⟨_, _, _, heq⟩ | ⟨_, _, _, heq⟩ | ⟨_, _, _, heq⟩ <;> rw [heq]
  · exact isrStep_script s
  · rfl
  · exact mainStep_script _
  · exact mainStep_script s

theorem step_hostScript {s t : State} (hs : s.hostScript = true) (h : step s = .next t) : t.hostScript = true := by
  obtain ⟨entries, hentries, rfl | ⟨i, hi, hexec⟩⟩ := hostScript_step_cases hs h
  · rwa [State.hostScript, cpuStep_script]
  · have ports : OnlyPortChanges _ t := exec_hostAction_onlyPort hi hexec
    rw [ports]
    exact hentries

/-! ## One line -/

/-- What a MAIN line expands to does not depend on `I`. -/
theorem mainLine_expands {l : Line} (hl : mainLine l = true) (s : State) : (lineStep l s).2.all mainLine = true := by
  have own := (mainLine_expandsBracketed (s := { s with ie := false }) hl fun _ => rfl).own
  cases l
  case sample raw => cases raw <;> exact own
  all_goals exact own

theorem lineStep_phase {l : Line} (hl : mainLine l = true ∨ devLine l = true) (s : State) :
    (lineStep l s).1.ce.phase = s.ce.phase := by
  cases l
  case commitClr => exact congrArg ControlEngine.phase (portCommitClr_same s).ce
  case fifoWrite b => exact congrArg ControlEngine.phase (portFifoWrite_same b s).ce
  case sample raw => cases raw <;> rfl
  case commit | intakeByte | setPhase | cwSetSrc | cwSetPos | cwSetRem | cwSetLast =>
    rcases hl with hl | hl <;> cases hl
  all_goals rfl

/-- The position of EP_ISR ends with a line that ends DISPATCH. -/
def leadsToEnd (pc : List Line) : Prop := ∃ ls l, pc = ls ++ [l] ∧ endsDispatch l = true

theorem leadsToEnd_append {pc : List Line} (ls : List Line) (h : leadsToEnd pc) : leadsToEnd (ls ++ pc) := by
  obtain ⟨ls', l, rfl, hl⟩ := h
  exact ⟨ls ++ ls', l, (List.append_assoc ..).symm, hl⟩

theorem leadsToEnd_singleton {l : Line} (h : endsDispatch l = true) : leadsToEnd [l] := ⟨[], l, rfl, h⟩

theorem handlerFrom_fatal_leadsToEnd (p : Params) (got : List Byte) : leadsToEnd (handlerFrom p .fatal got) := by
  unfold handlerFrom
  split
  · exact leadsToEnd_singleton rfl
  · exact leadsToEnd_append [_, _, _] (leadsToEnd_singleton rfl)

theorem dispatchCode_leadsToEnd (p : Params) (r : Request) : leadsToEnd (dispatchCode p r) := by
  unfold dispatchCode
  split
  case isTrue hr => exact hr ▸ handlerFrom_fatal_leadsToEnd p []
  case isFalse => exact leadsToEnd_append _ (leadsToEnd_singleton rfl)

/-- The last line of the position leads on to the end, halts, or sets the phase back and leaves nothing to run. -/
theorem lineStep_endsDispatch {l : Line} (h : endsDispatch l = true) (s : State) :
    leadsToEnd (lineStep l s).2 ∨ (lineStep l s).1.halted = true ∨
      ((lineStep l s).2 = [] ∧ (lineStep l s).1.ce.phase = .idle) := by
  cases l
  case dispatch => exact .inl (leadsToEnd_singleton rfl)
  case dispatchOn => exact .inl (dispatchCode_leadsToEnd _ _)
  case operand r got =>
    obtain rfl : r = .fatal := eq_of_beq h
    exact .inl (handlerFrom_fatal_leadsToEnd _ _)
  case setPhase p => exact .inr (.inr ⟨rfl, eq_of_beq h⟩)
  case fatalHalt => exact .inr (.inl rfl)
  all_goals cases h

/-! ## The CPU's own step, context by context -/

theorem State.phaseInv_main {s : State} (hm : s.ctx = .main) :
    s.phaseInv ↔ (∀ l ∈ s.mainPc, mainLine l = true) ∧ s.ce.phase = .idle := by
  simp only [State.phaseInv, hm]

theorem State.phaseInv_devIsr {s : State} (hd : s.ctx = .devIsr) :
    s.phaseInv ↔ (∀ l ∈ s.mainPc, mainLine l = true) ∧ s.ce.phase = .idle ∧ ∀ l ∈ s.isrPc, devLine l = true := by
  simp only [State.phaseInv, hd]

theorem State.phaseInv_epIsr {s : State} (he : s.ctx = .epIsr) :
    s.phaseInv ↔ (∀ l ∈ s.mainPc, mainLine l = true) ∧
      (s.halted = true ∨
        ((s.isrPc = [] ∨ s.isrPc = [.setupStatus] ∨ s.isrPc = epIsrCode) ∧ s.ce.phase = .idle) ∨
        leadsToEnd s.isrPc) := by
  simp only [State.phaseInv, he, leadsToEnd]

theorem mainCode_own {s : State} (h : ∀ l ∈ s.mainPc, mainLine l = true) : ∀ l ∈ mainCode s, mainLine l = true := by
  unfold mainCode
  split
  · exact List.all_eq_true.mp rfl
  · exact h

theorem mainStep_phaseInv {s : State} (hm : s.ctx = .main) (h : s.phaseInv) : (mainStep s).phaseInv := by
  rcases mainStep_cases s with heq | ⟨l, ls, hcode, _, heq⟩ <;> rw [heq]
  · exact h
  · obtain ⟨own, idle⟩ := (State.phaseInv_main hm).mp h
    have ownCode := mainCode_own own
    rw [hcode] at ownCode
    obtain ⟨ownLine, ownRest⟩ := List.forall_mem_cons.mp ownCode
    refine (State.phaseInv_main ?ctx).mpr ⟨?own, ?idle⟩
    case ctx => exact (lineStep_frame l s).ctx.trans hm
    case own =>
      exact List.forall_mem_append.mpr ⟨List.all_eq_true.mp (mainLine_expands ownLine s), ownRest⟩
    case idle => exact (lineStep_phase (.inl ownLine) s).trans idle

theorem interruptEntry_phaseInv {s : State} {c : Ctx} (hc : c ≠ .main) (hm : s.ctx = .main) (h : s.phaseInv) :
    (interruptEntry c s).phaseInv := by
  obtain ⟨own, idle⟩ := (State.phaseInv_main hm).mp h
  cases c
  case main => exact absurd rfl hc
  case devIsr => exact (State.phaseInv_devIsr rfl).mpr ⟨own, idle, List.all_eq_true.mp rfl⟩
  case epIsr => exact (State.phaseInv_epIsr rfl).mpr ⟨own, .inr (.inl ⟨.inr (.inr rfl), idle⟩)⟩

theorem devStep_phaseInv {s : State} (hd : s.ctx = .devIsr) (h : s.phaseInv) : (isrStep s).phaseInv := by
  obtain ⟨own, idle, ownIsr⟩ := (State.phaseInv_devIsr hd).mp h
  rcases isrStep_cases s with ⟨_, heq⟩ | heq | ⟨l, ls, hpc, _, heq⟩ <;> rw [heq]
  · exact (State.phaseInv_main rfl).mpr ⟨own, idle⟩
  · exact h
  · have frame := lineStep_frame l s
    rw [hpc] at ownIsr
    obtain ⟨ownLine, ownRest⟩ := List.forall_mem_cons.mp ownIsr
    obtain ⟨ownNext, _⟩ := (devLineRuns ownLine s).expands
    refine (State.phaseInv_devIsr ?ctx).mpr
      ⟨frame.mainPc ▸ own, (lineStep_phase (.inr ownLine) s).trans idle, ?own⟩
    case ctx => exact frame.ctx.trans hd
    case own => exact List.forall_mem_append.mpr ⟨List.all_eq_true.mp ownNext, ownRest⟩

/-- What stands after EP_ISR's next line: its start goes on with the phase IDLE, and the rest of the body keeps the line
it ends with until that line runs. -/
theorem epLine_keepsEnd {s : State} {l : Line} {ls : List Line} (hpc : s.isrPc = l :: ls)
    (h : ((s.isrPc = [.setupStatus] ∨ s.isrPc = epIsrCode) ∧ s.ce.phase = .idle) ∨ leadsToEnd s.isrPc) :
    (lineStep l s).1.halted = true ∨
      (((lineStep l s).2 ++ ls = [] ∨ (lineStep l s).2 ++ ls = [.setupStatus]) ∧ (lineStep l s).1.ce.phase = .idle) ∨
      leadsToEnd ((lineStep l s).2 ++ ls) := by
  rw [hpc] at h
  rcases h with ⟨hstart | hstart, idle⟩ | ⟨before, last, hend, hlast⟩
  · cases hstart
    simp only [lineStep]
    split
    · rw [List.append_nil]
      exact .inr (.inr (leadsToEnd_append _ (leadsToEnd_singleton rfl)))
    · exact .inr (.inl ⟨.inl rfl, idle⟩)
  · cases hstart
    exact .inr (.inl ⟨.inr rfl, idle⟩)
  · cases before with
    | nil =>
      cases hend
      rw [List.append_nil]
      rcases lineStep_endsDispatch hlast s with goesOn | halts | ⟨nothing, idle⟩
      · exact .inr (.inr goesOn)
      · exact .inl halts
      · exact .inr (.inl ⟨.inl nothing, idle⟩)
    | cons first before =>
      cases hend
      exact .inr (.inr (leadsToEnd_append _ (leadsToEnd_append _ (leadsToEnd_singleton hlast))))

theorem epStep_phaseInv {s : State} (he : s.ctx = .epIsr) (running : s.halted = false) (h : s.phaseInv) :
    (isrStep s).phaseInv := by
  obtain ⟨own, halted | place⟩ := (State.phaseInv_epIsr he).mp h
  · cases running.symm.trans halted
  rcases isrStep_cases s with ⟨hpc, heq⟩ | heq | ⟨l, ls, hpc, _, heq⟩ <;> rw [heq]
  · refine (State.phaseInv_main rfl).mpr ⟨own, ?_⟩
    rcases place with ⟨_, idle⟩ | ⟨before, last, hend, _⟩
    · exact idle
    · simp [hpc] at hend
  · exact h
  · have frame := lineStep_frame l s
    refine (State.phaseInv_epIsr ?ctx).mpr ⟨frame.mainPc ▸ own, ?place⟩
    case ctx => exact frame.ctx.trans he
    rcases epLine_keepsEnd hpc (place.imp_left (And.imp_left (·.resolve_left (by simp [hpc])))) with
      halts | ⟨start | start, idle⟩ | goesOn
    · exact .inl halts
    · exact .inr (.inl ⟨.inl start, idle⟩)
    · exact .inr (.inl ⟨.inr (.inl start), idle⟩)
    · exact .inr (.inr goesOn)

theorem cpuStep_phaseInv {s : State} (h : s.phaseInv) : (cpuStep s).phaseInv := by
  rcases cpuStep_cases s with ⟨_, heq⟩ | ⟨running, hm, heq⟩ | ⟨_, hm, _, heq⟩ | ⟨_, hm, _, heq⟩ | ⟨_, hm, _, heq⟩ <;>
    rw [heq]
  · exact h
  · cases hc : s.ctx
    case main => exact absurd hc hm
    case devIsr => exact devStep_phaseInv hc h
    case epIsr => exact epStep_phaseInv hc running h
  · exact interruptEntry_phaseInv (s.enters_ne_main _) hm h
  · exact mainStep_phaseInv hm h
  · exact mainStep_phaseInv hm h

/-- Settles O52: a HOST action touches neither a position nor the phase, and the CPU's own step keeps the invariant
context by context. -/
theorem phaseKept : Obligations.PhaseKept := by
  intro s t hs h hstep
  refine ⟨?_, step_hostScript hs hstep⟩
  obtain ⟨entries, _, rfl | ⟨i, hi, hexec⟩⟩ := hostScript_step_cases hs hstep
  · exact cpuStep_phaseInv (s := { s with script := entries }) h
  · have ports : OnlyPortChanges _ t := exec_hostAction_onlyPort hi hexec
    rw [ports]
    exact h

end Sys2Proof.Machine
end

section
/-! PROOF. Runs of lines to their end. Such a run is put together from runs of its parts (`runLines_append_end`), and more
lines allowed do not change it (`runLines_end_mono`), so no proof counts lines exactly. Most parts are `straight` lines,
the fold of their effects; COMMIT with room is one update of an endpoint (`runLines_statusCommit`). A request whose
handler comes to its end is the handler's effect and DISPATCH's last line (`runRequest_returns`). -/

namespace Sys2Proof.Machine

open Sys2Proof

/-! ## Runs of lines to their end -/

/-- A run that has come to its end is the same with more lines allowed. -/
theorem runLines_end_mono {m n : Nat} {ls : List Line} {s t : State} (h : runLines m ls s = (t, [])) (hmn : m ≤ n) :
    runLines n ls s = (t, []) := by
  induction m generalizing n ls s with
  | zero =>
    obtain ⟨rfl, rfl⟩ := Prod.mk.inj h
    exact runLines_nil n s
  | succ m ih =>
    obtain ⟨n, rfl⟩ := Nat.exists_eq_add_of_le' (Nat.lt_of_lt_of_le m.succ_pos hmn)
    have fewer : m ≤ n := Nat.le_of_succ_le_succ hmn
    cases ls with
    | nil => exact h
    | cons l ls =>
      unfold runLines at h ⊢
      split
      case isTrue stopped => rw [if_pos stopped] at h; cases h
      case isFalse runs =>
        rw [if_neg runs] at h
        split
        case isTrue passed => rw [if_pos passed] at h; exact ih h fewer
        case isFalse steps => rw [if_neg steps] at h; exact ih h fewer

/-- A run to its end, and then a run of the lines behind it to theirs. -/
theorem runLines_append_end {m n : Nat} {ls ls' : List Line} {s t u : State} (h : runLines m ls s = (t, []))
    (h' : runLines n ls' t = (u, [])) : runLines (m + n) (ls ++ ls') s = (u, []) := by
  induction m generalizing ls s with
  | zero =>
    obtain ⟨rfl, rfl⟩ := Prod.mk.inj h
    rwa [Nat.zero_add]
  | succ m ih =>
    cases ls with
    | nil =>
      obtain ⟨rfl, -⟩ := Prod.mk.inj h
      exact runLines_end_mono h' (Nat.le_add_left ..)
    | cons l ls =>
      rw [Nat.add_right_comm, List.cons_append]
      unfold runLines at h ⊢
      split
      case isTrue stopped => rw [if_pos stopped] at h; cases h
      case isFalse runs =>
        rw [if_neg runs] at h
        split
        case isTrue passed => rw [if_pos passed] at h; exact ih h
        case isFalse steps =>
          rw [if_neg steps] at h
          rw [← List.append_assoc]
          exact ih h

/-- Lines of EP_ISR that are never waited in, put no line in front and cannot halt. -/
def straight : Line → Bool
  | .select _ | .ackSetup | .stall | .epReset | .epConfigure _ | .setPhase _ | .setUsbConfiguration _ | .setIdleRate _
  | .setIdleCounter _ | .setI _ | .setReqByte _ _ | .emitDiag _ => true
  | _ => false

/-- The effects of lines, one after the other. -/
def afterLines (ls : List Line) (s : State) : State := ls.foldl (fun s l => (lineStep l s).1) s

theorem runLines_straight {ls : List Line} {s : State} (h : ls.all straight = true) (running : s.halted = false) :
    runLines ls.length ls s = (afterLines ls s, []) := by
  induction ls generalizing s with
  | nil => rfl
  | cons l ls ih =>
    rw [List.all_cons, Bool.and_eq_true] at h
    obtain ⟨hl, hls⟩ := h
    cases l
    case select | ackSetup | stall | epReset | epConfigure | setPhase | setUsbConfiguration | setIdleRate
        | setIdleCounter | setI | setReqByte | emitDiag =>
      rw [List.length_cons, runLines_line running rfl rfl (by simp)]
      exact ih hls running
    all_goals cases hl

/-! ## The status packet (40_port.md R153) -/

/-- The endpoint after COMMIT where its bank has room: the packet is dropped on a disabled endpoint. -/
def Endpoint.commitOrDrop (x : Endpoint) : Endpoint := if x.en then x.commitBank else x

/-- No COMMIT on the endpoint is a PORT_MISUSE. -/
def Endpoint.hasRoom (x : Endpoint) : Prop := x.en = true → x.committed.length < bankCount x.banks

theorem portCommit_hasRoom {s : State} (room : (s.ep s.epSel).hasRoom) :
    portCommit s = s.modEp s.epSel Endpoint.commitOrDrop := by
  rcases portCommit_cases s with ⟨off, h⟩ | ⟨on, full, _⟩ | ⟨on, _, h⟩
  · rw [h, State.modEp_id]
    simp [Endpoint.commitOrDrop, off]
  · exact absurd (room on) (Nat.not_lt.mpr full)
  · rw [h, State.modEp, State.modEp, Endpoint.commitOrDrop, if_pos on]

theorem runLines_statusCommit {s : State} (running : s.halted = false) (selected : s.epSel = 0)
    (room : (s.ep 0).hasRoom) : runLines 1 [.commit] s = (s.modEp 0 Endpoint.commitOrDrop, []) := by
  have commit := portCommit_hasRoom (s := s) (by rwa [selected])
  rw [runLines_line running rfl rfl (by simp), lineStep, commit, selected]
  rfl

/-! ## Requests as a whole (R232) -/

/-- A request whose handler's lines run to their end, in at most 1000 lines: their effect with the packet in `req`, and
the phase back at IDLE. -/
theorem runRequest_returns {i : Instr} {r : Request} {m : Nat} {ls : List Line} {s t : State}
    (running : s.halted = false) (hr : r ≠ .fatal) (body : runLines m ls (withRequest i s) = (t, []))
    (code : handlerBody s.params r (operandsOf r (withRequest i s).req) = ls) (runs : t.halted = false)
    (hm : m ≤ 1000) : runRequest i r s = setPhase .idle t := by
  subst code
  have dispatchEnd := runLines_append_end body (runLines_straight (ls := [.setPhase .idle]) rfl runs)
  have whole := (runLines_request (m + 1) r [.setPhase .idle] (withRequest i s) running).trans dispatchEnd
  have operands : (operandBytes r).length ≤ 8 := by cases r <;> decide
  rw [runRequest, cpuOp_running running, dispatchCode_of_returns hr]
  exact perform_done running (runLines_end_mono whole (by rw [lineBound]; omega))

end Sys2Proof.Machine
end

section
/-! PROOF. SETUP_INTAKE, DESC_SEARCH, the requests that end without a hold, and FATAL (42_control.md R231, R234 to R236,
R238, R241), each from the run of its lines to their end. -/

namespace Sys2Proof.Machine

open Sys2Proof

/-! ## SETUP_INTAKE (R231) -/

/-- `req` with bytes written at places, one after the other. -/
def storeBytes (req : UsbRequest) (is : List (Fin 8)) (bs : List Byte) : UsbRequest :=
  (is.zip bs).foldl (fun req p => req.setByte p.1 p.2) req

/-- Eight bytes written in order are what `req` holds. -/
theorem bytes_storeBytes (req : UsbRequest) {bs : List Byte} (h : bs.length = 8) :
    (storeBytes req (List.finRange 8) bs).bytes = bs := by
  match bs, h with
  | [_, _, _, _, _, _, _, _], _ => rfl

theorem UsbRequest.eq_of_bytes {r : UsbRequest} {b0 b1 b2 b3 b4 b5 b6 b7 : Byte}
    (h : r.bytes = [b0, b1, b2, b3, b4, b5, b6, b7]) : r = { b0, b1, b2, b3, b4, b5, b6, b7 } := by
  cases r
  cases h
  rfl

/-- The endpoint with `n` bytes of OUTBUF read, as far as it holds them. -/
def Endpoint.dropOut (n : Nat) (x : Endpoint) : Endpoint := { x with outbuf := x.outbuf.drop n }

theorem Endpoint.dropOut_of_nil {x : Endpoint} (h : x.outbuf = []) (n : Nat) : x.dropOut n = x := by
  rw [Endpoint.dropOut, h, List.drop_nil, ← h]

theorem Endpoint.dropOut_dropOut (x : Endpoint) (m n : Nat) : (x.dropOut m).dropOut n = x.dropOut (m + n) :=
  congrArg (fun buf => { x with outbuf := buf }) List.drop_drop

/-- `n` FIFO_READs of endpoint 0 later, with `req` as given: the bytes OUTBUF holds leave it, and every other read draws
a free value (40_port.md R155). -/
def State.tookIn (s : State) (n : Nat) (req : UsbRequest) : State :=
  { s.modEp 0 (Endpoint.dropOut n) with req := req, draws := s.draws + (n - (s.ep 0).outbuf.length) }

theorem State.tookIn_zero (s : State) : s.tookIn 0 s.req = s := by
  rw [State.tookIn, State.modEp_id _ _ _ rfl, Nat.zero_sub]
  rfl

theorem State.tookIn_ep (s : State) (n : Nat) (req : UsbRequest) : (s.tookIn n req).ep 0 = (s.ep 0).dropOut n :=
  (State.ep_modEp s 0 0 (Endpoint.dropOut n)).trans (if_pos rfl)

theorem State.tookIn_tookIn (s : State) (m n : Nat) (req req' : UsbRequest) :
    (s.tookIn m req).tookIn n req' = s.tookIn (m + n) req' := by
  have eps : (s.modEp 0 (Endpoint.dropOut m)).modEp 0 (Endpoint.dropOut n) = s.modEp 0 (Endpoint.dropOut (m + n)) := by
    simp only [State.modEp_modEp, Endpoint.dropOut_dropOut]
  have draws : (s.tookIn m req).draws + (n - ((s.tookIn m req).ep 0).outbuf.length) =
      s.draws + (m + n - (s.ep 0).outbuf.length) := by
    have left : ((s.tookIn m req).ep 0).outbuf.length = (s.ep 0).outbuf.length - m := by
      rw [State.tookIn_ep]
      exact List.length_drop
    rw [left, State.tookIn]
    dsimp only
    omega
  exact congrArg₂ (fun (t : State) d => { t with req := req', draws := d }) eps draws

/-- A FIFO_READ of endpoint 0 takes the byte OUTBUF begins with, where it holds one. -/
theorem portFifoRead_tookIn {s : State} (selected : s.epSel = 0) :
    ∃ b, (s.ep 0).outbuf.take 1 <+: [b] ∧ portFifoRead s = (b, s.tookIn 1 s.req) := by
  rcases portFifoRead_cases s with ⟨holds, read⟩ | ⟨b, rest, holds, read⟩ <;> rw [selected] at holds
  · have unchanged : s.modEp 0 (Endpoint.dropOut 1) = s := State.modEp_id _ _ _ (Endpoint.dropOut_of_nil holds 1)
    refine ⟨Config.emptyFifoByte s.draws, by rw [holds]; exact List.nil_prefix, read.trans ?_⟩
    rw [State.tookIn, unchanged, holds]
    rfl
  · have left : (s.ep 0).dropOut 1 = { s.ep 0 with outbuf := rest } := by rw [Endpoint.dropOut, holds]; rfl
    have noDraw : 1 - (s.ep 0).outbuf.length = 0 := by rw [holds, List.length_cons]; omega
    refine ⟨b, by rw [holds]; exact List.prefix_rfl, read.trans ?_⟩
    rw [State.tookIn, State.modEp, State.modEp, selected, left, noDraw]
    rfl

/-- One byte of the packet: the FIFO_READ and the write of what it read. -/
theorem runLines_intakeByte (i : Fin 8) {s : State} (running : s.halted = false) (selected : s.epSel = 0) :
    ∃ b, (s.ep 0).outbuf.take 1 <+: [b] ∧
      runLines 2 [.intakeByte i] s = (s.tookIn 1 (s.req.setByte i b), []) := by
  obtain ⟨b, holds, read⟩ := portFifoRead_tookIn selected
  refine ⟨b, holds, ?_⟩
  rw [runLines_line running rfl rfl (by simp), lineStep, read]
  exact runLines_straight (ls := [.setReqByte i b]) rfl running

theorem take_succ_prefix {b : Byte} {bs buf : List Byte} {n : Nat} (first : buf.take 1 <+: [b])
    (rest : (buf.drop 1).take n <+: bs) : buf.take (n + 1) <+: b :: bs := by
  cases buf with
  | nil => exact List.nil_prefix
  | cons b' buf =>
    obtain ⟨rfl, -⟩ := List.cons_prefix_cons.mp first
    exact (List.prefix_cons_inj b').mpr rest

/-- The reads of the packet: the bytes that go to `req` begin with those OUTBUF holds. -/
theorem runLines_intakeBytes (is : List (Fin 8)) {s : State} (running : s.halted = false) (selected : s.epSel = 0) :
    ∃ bs : List Byte, bs.length = is.length ∧ (s.ep 0).outbuf.take is.length <+: bs ∧
      runLines (2 * is.length) (is.map .intakeByte) s = (s.tookIn is.length (storeBytes s.req is bs), []) := by
  induction is generalizing s with
  | nil => exact ⟨[], rfl, List.prefix_rfl, congrArg (·, []) s.tookIn_zero.symm⟩
  | cons i is ih =>
    obtain ⟨b, first, read⟩ := runLines_intakeByte i running selected
    obtain ⟨bs, hlength, rest, reads⟩ := ih (s := s.tookIn 1 (s.req.setByte i b)) running selected
    rw [State.tookIn_ep] at rest
    refine ⟨b :: bs, congrArg (· + 1) hlength, take_succ_prefix first rest, ?_⟩
    have all := runLines_append_end read reads
    rw [State.tookIn_tookIn, Nat.add_comm 1] at all
    rw [List.length_cons, Nat.mul_succ, Nat.add_comm (2 * is.length)]
    exact all

/-- SETUP_INTAKE as a whole: the packet taken in, the two flags cleared, the phase at DISPATCH. -/
theorem perform_intake {s : State} (running : s.halted = false) (selected : s.epSel = 0) :
    ∃ req : UsbRequest, (s.ep 0).outbuf.take 8 <+: req.bytes ∧
      perform intakeCode s =
        { s.setEp 0 { s.ep 0 with outbuf := (s.ep 0).outbuf.drop 8, rxstp := false, rxout := false } with
          req := req, ce := { s.ce with phase := .dispatch }, draws := s.draws + (8 - (s.ep 0).outbuf.length) } := by
  obtain ⟨bs, hlength, holds, reads⟩ :=
    runLines_intakeBytes (List.finRange 8) (s := setPhase .intake s) running selected
  refine ⟨storeBytes s.req (List.finRange 8) bs, by rwa [bytes_storeBytes _ hlength], ?_⟩
  have start := runLines_straight (ls := [.setPhase .intake]) (s := s) rfl running
  have finish := runLines_straight (ls := [.ackSetup, .setPhase .dispatch])
    (s := (setPhase .intake s).tookIn 8 (storeBytes s.req (List.finRange 8) bs)) rfl running
  have whole := runLines_append_end start (runLines_append_end reads finish)
  have acknowledged := State.modEp_modEp s 0 (Endpoint.dropOut 8) fun x => { x with rxstp := false, rxout := false }
  refine (perform_done running (runLines_end_mono whole (by decide))).trans ?_
  exact congrArg (fun t : State => { t with
    req := storeBytes s.req (List.finRange 8) bs, ce := { s.ce with phase := .dispatch }
    draws := s.draws + (8 - (s.ep 0).outbuf.length) }) acknowledged

/-- Settles O31: OUTBUF holds eight bytes, which are `req`, or fewer, with which `req` begins. -/
theorem setupIntake : Obligations.SetupIntake := by
  intro s running selected
  obtain ⟨req, holds, intake⟩ := perform_intake running selected
  refine ⟨fun b0 b1 b2 b3 b4 b5 b6 b7 rest full => ?full, fun short => ⟨req, ?short, ?begins⟩⟩
  case full =>
    have noDraw : 8 - (s.ep 0).outbuf.length = 0 := by rw [full]; simp
    rw [noDraw, full] at intake
    rw [full] at holds
    obtain rfl := UsbRequest.eq_of_bytes (holds.eq_of_length rfl).symm
    exact congrArg _ intake
  case short =>
    rw [List.drop_eq_nil_of_le short.le] at intake
    exact congrArg _ intake
  case begins =>
    rw [List.take_of_length_le short.le] at holds
    exact (List.prefix_iff_eq_take.mp holds).symm

/-! ## DESC_SEARCH (R238) -/

/-- The pair of a table entry is the one looked for. -/
def entryHasPair (v x : Half) (d : DescriptorEntry) : Bool := decide (d.value = v ∧ d.index = x)

theorem descSearchFrom_eq_findIdx (v x : Half) (i : Nat) (ds : List DescriptorEntry) :
    descSearchFrom v x i ds = (ds.findIdx? (entryHasPair v x)).map (· + i) := by
  induction ds generalizing i with
  | nil => rfl
  | cons d ds ih =>
    rw [descSearchFrom, List.findIdx?_cons]
    by_cases h : d.value = v ∧ d.index = x
    · simp [entryHasPair, h]
    · simp [entryHasPair, h, ih, Function.comp_def, Nat.add_assoc, Nat.add_comm 1]

/-- Settles O32: the search is for the first entry with the pair. -/
theorem descSearch_first : Obligations.DescSearch := by
  intro v x s running
  have search : descSearch s.params v x = s.params.descTable.findIdx? (entryHasPair v x) :=
    (descSearchFrom_eq_findIdx v x 0 _).trans Option.map_id'
  refine ⟨descSearch s.params v x, next_cpuOp running rfl, fun i hi => ?_, fun none d hd => ?_⟩
  · obtain ⟨inTable, found, first⟩ := List.findIdx?_eq_some_iff_getElem.mp (search ▸ hi)
    refine ⟨⟨_, List.getElem?_eq_getElem inTable, of_decide_eq_true found⟩, fun j hj d hd => ?_⟩
    obtain ⟨_, rfl⟩ := List.getElem?_eq_some_iff.mp hd
    exact fun pair => first j hj (decide_eq_true pair)
  · exact of_decide_eq_false (List.findIdx?_eq_none_iff.mp (search ▸ none) d hd)

/-! ## SET_CONFIGURATION (R234) -/

/-- The endpoint with its table entry, where it has one that is enabled, configured and reset (R159, R158). -/
def Endpoint.configuredBy (entry : Option EndpointConfig) (x : Endpoint) : Endpoint :=
  match entry with
  | some c => if c.enabled then (x.configure c).flush else x
  | none => x

theorem Endpoint.configuredBy_of_enabled {c : EndpointConfig} (hc : c.enabled = true) :
    Endpoint.configuredBy (some c) = fun x => (x.configure c).flush :=
  funext fun _ => if_pos hc

/-- Whether the endpoint has an enabled entry of EP_TABLE (10_state.md R43). -/
def enabledIn (p : Params) (e : EpNum) : Bool := (p.epConfig e).any EndpointConfig.enabled

/-- The effect of SET_CONFIGURATION's lines for one endpoint. -/
def State.configureEp (s : State) (e : EpNum) : State :=
  { s.modEp e (Endpoint.configuredBy (s.params.epConfig e)) with
    epSel := if enabledIn s.params e then e else s.epSel }

/-- An endpoint without an enabled entry is left alone. -/
theorem State.configureEp_of_skipped {s : State} {e : EpNum}
    (h : (s.ep e).configuredBy (s.params.epConfig e) = s.ep e) (off : enabledIn s.params e = false) :
    s.configureEp e = s := by
  rw [State.configureEp, State.modEp_id s e _ h, off]
  rfl

theorem configureCode_of_none {p : Params} {e : EpNum} (h : p.epConfig e = none) : configureCode p e = [] := by
  simp only [configureCode, h]

theorem configureCode_of_some {p : Params} {e : EpNum} {c : EndpointConfig} (h : p.epConfig e = some c) :
    configureCode p e = if c.enabled then [.select e, .epConfigure c, .epReset] else [] := by
  simp only [configureCode, h]

theorem afterLines_configure {s : State} {e : EpNum} {c : EndpointConfig} (hentry : s.params.epConfig e = some c)
    (hc : c.enabled = true) : afterLines [.select e, .epConfigure c, .epReset] s = s.configureEp e := by
  simp only [State.configureEp, enabledIn, hentry, Endpoint.configuredBy_of_enabled hc, hc, Option.any, if_true]
  exact State.modEp_modEp (portSelect e s) e (Endpoint.configure c) Endpoint.flush

theorem runLines_configure (e : EpNum) {s : State} (running : s.halted = false) :
    runLines 3 (configureCode s.params e) s = (s.configureEp e, []) := by
  cases hentry : s.params.epConfig e with
  | none =>
    rw [configureCode_of_none hentry, runLines_nil,
      State.configureEp_of_skipped (by rw [hentry]; rfl) (by rw [enabledIn, hentry]; rfl)]
  | some c =>
    rw [configureCode_of_some hentry]
    cases hc : c.enabled with
    | false =>
      have skipped : s.configureEp e = s := State.configureEp_of_skipped
        (by simp [hentry, Endpoint.configuredBy, hc]) (by simp [enabledIn, hentry, hc])
      rw [skipped]
      exact runLines_nil 3 s
    | true =>
      rw [← afterLines_configure hentry hc]
      exact runLines_straight (ls := [.select e, .epConfigure c, .epReset]) rfl running

/-- The effect of SET_CONFIGURATION's loop over endpoints. -/
def State.configureEps (s : State) (es : List EpNum) : State := es.foldl State.configureEp s

theorem runLines_configureEps (es : List EpNum) {s : State} (running : s.halted = false) :
    runLines (3 * es.length) (es.flatMap (configureCode s.params)) s = (s.configureEps es, []) := by
  induction es generalizing s with
  | nil => rfl
  | cons e es ih =>
    rw [List.length_cons, Nat.mul_succ, Nat.add_comm]
    exact runLines_append_end (runLines_configure e running) (ih (s := s.configureEp e) running)

theorem State.configureEps_rest (s : State) (es : List EpNum) :
    s.configureEps es = { s with epSel := (s.configureEps es).epSel, eps := (s.configureEps es).eps } := by
  induction es generalizing s with
  | nil => rfl
  | cons e es ih => exact ih (s.configureEp e)

theorem State.configureEps_ep (s : State) {es : List EpNum} (distinct : es.Nodup) (f : EpNum) :
    (s.configureEps es).ep f = if f ∈ es then (s.ep f).configuredBy (s.params.epConfig f) else s.ep f := by
  induction es generalizing s with
  | nil => rfl
  | cons e es ih =>
    obtain ⟨fresh, distinct⟩ := List.nodup_cons.mp distinct
    have here : (s.configureEp e).ep f = if f = e then (s.ep e).configuredBy (s.params.epConfig e) else s.ep f :=
      State.ep_modEp ..
    refine (ih (s.configureEp e) distinct).trans ?_
    rw [here]
    by_cases hf : f = e
    · subst hf
      rw [if_neg fresh, if_pos rfl, if_pos List.mem_cons_self]
    · simp only [List.mem_cons, hf, false_or, if_false]
      rfl

/-- Over endpoints in rising order, EP_SEL is left at the last one configured. -/
theorem State.configureEps_epSel (s : State) {es : List EpNum} (rising : (s.epSel :: es).Pairwise (· < ·)) :
    s.epSel ≤ (s.configureEps es).epSel ∧
      (∀ e ∈ es, enabledIn s.params e = true → e ≤ (s.configureEps es).epSel) ∧
      ((s.configureEps es).epSel = s.epSel ∨ enabledIn s.params (s.configureEps es).epSel = true) := by
  induction es generalizing s with
  | nil => exact ⟨le_refl _, fun _ h => absurd h List.not_mem_nil, .inl rfl⟩
  | cons e es ih =>
    obtain ⟨above, rest⟩ := List.pairwise_cons.mp rising
    cases he : enabledIn s.params e with
    | true =>
      have here : (s.configureEp e).epSel = e := if_pos he
      obtain ⟨atLeast, enabled, last⟩ := ih (s.configureEp e) (by rwa [here])
      rw [here] at atLeast last
      refine ⟨(above e List.mem_cons_self).le.trans atLeast,
        List.forall_mem_cons.mpr ⟨fun _ => atLeast, enabled⟩, .inr ?_⟩
      rcases last with last | last
      · exact (congrArg (enabledIn s.params) last).trans he
      · exact last
    | false =>
      have here : (s.configureEp e).epSel = s.epSel := if_neg (Bool.eq_false_iff.mp he)
      obtain ⟨atLeast, enabled, last⟩ := ih (s.configureEp e)
        (by rw [here]; exact List.pairwise_cons.mpr ⟨fun f hf => above f (List.mem_cons_of_mem _ hf), rest.of_cons⟩)
      rw [here] at atLeast last
      exact ⟨atLeast,
        List.forall_mem_cons.mpr ⟨fun on => absurd (he.symm.trans on) Bool.false_ne_true, enabled⟩, last⟩

/-- The endpoints EP_TABLE has entries for. -/
def tableEps : List EpNum := [1, 2, 3, 4]

theorem mem_tableEps_iff : ∀ e : EpNum, e ∈ tableEps ↔ e ≠ 0 := by decide

theorem epConfig_ne_zero {p : Params} {e : EpNum} {c : EndpointConfig} (h : p.epConfig e = some c) : e ≠ 0 := by
  rintro rfl
  cases h

/-- The status packet handed over and `usb_configuration` written. -/
def State.configurationSet (s : State) (cfg : Byte) : State :=
  { s.modEp 0 Endpoint.commitOrDrop with usbConfiguration := cfg }

/-- The effect of SET_CONFIGURATION's lines. -/
def State.configuredAs (s : State) (cfg : Byte) : State := (s.configurationSet cfg).configureEps tableEps

theorem runLines_setConfigurationCode (cfg : Byte) {s : State} (running : s.halted = false) (selected : s.epSel = 0)
    (room : (s.ep 0).hasRoom) : runLines 14 (setConfigurationCode s.params cfg) s = (s.configuredAs cfg, []) := by
  have code : setConfigurationCode s.params cfg =
      [.setUsbConfiguration cfg] ++ ([.commit] ++ tableEps.flatMap (configureCode s.params)) := by
    simp [setConfigurationCode, tableEps]
  rw [code]
  exact runLines_append_end (runLines_straight (ls := [.setUsbConfiguration cfg]) rfl running)
    (runLines_append_end (runLines_statusCommit running selected room)
      (runLines_configureEps tableEps (s := s.configurationSet cfg) running))

theorem State.configuredAs_rest (s : State) (cfg : Byte) :
    s.configuredAs cfg =
      { s with
        usbConfiguration := cfg, epSel := (s.configuredAs cfg).epSel, eps := (s.configuredAs cfg).eps } :=
  (s.configurationSet cfg).configureEps_rest tableEps

theorem State.configuredAs_ep_zero (s : State) (cfg : Byte) : (s.configuredAs cfg).ep 0 = (s.ep 0).commitOrDrop :=
  ((s.configurationSet cfg).configureEps_ep (by decide) 0).trans ((State.ep_modEp ..).trans (if_pos rfl))

theorem State.configuredAs_ep (s : State) (cfg : Byte) (e : EpNum) (c : EndpointConfig)
    (h : s.params.epConfig e = some c) : (s.configuredAs cfg).ep e = (s.ep e).configuredBy (some c) := by
  have notControl := epConfig_ne_zero h
  have before : (s.configurationSet cfg).ep e = s.ep e := (State.ep_modEp ..).trans (if_neg notControl)
  have entry : (s.configurationSet cfg).params.epConfig e = some c := h
  rw [State.configuredAs, State.configureEps_ep _ (by decide), if_pos ((mem_tableEps_iff e).mpr notControl), before,
    entry]

theorem State.configuredAs_epSel {s : State} (selected : s.epSel = 0) (cfg : Byte) :
    (∀ e c, s.params.epConfig e = some c → c.enabled = true → e ≤ (s.configuredAs cfg).epSel) ∧
      ((s.configuredAs cfg).epSel = 0 ∨
        ∃ c, s.params.epConfig (s.configuredAs cfg).epSel = some c ∧ c.enabled = true) := by
  have start : (s.configurationSet cfg).epSel = 0 := selected
  obtain ⟨-, atLeast, last⟩ := (s.configurationSet cfg).configureEps_epSel (es := tableEps) (by rw [start]; decide)
  refine ⟨fun e c entry on => ?_, last.imp (·.trans start) fun enabled => ?_⟩
  · exact atLeast e ((mem_tableEps_iff e).mpr (epConfig_ne_zero entry)) ((congrArg _ entry).trans on)
  · exact (Option.any_eq_true _ _).mp enabled

/-- Settles O36: what the loop over EP_TABLE leaves, behind the write of the value and the status packet. -/
theorem setConfiguration : Obligations.SetConfiguration := by
  intro recipient args s running selected room
  have body := runLines_setConfigurationCode args.wValue.lo (s := withRequest (.setConfiguration recipient args) s)
    running selected room
  have request := runRequest_returns (r := .setConfiguration) running (by decide) body rfl
    (by rw [State.configuredAs_rest]; exact running) (by decide)
  obtain ⟨atLeast, last⟩ := State.configuredAs_epSel (s := withRequest (.setConfiguration recipient args) s)
    selected args.wValue.lo
  have table := (withRequest (.setConfiguration recipient args) s).configuredAs_ep args.wValue.lo
  refine ⟨_, congrArg Host.Outcome.next request, ?rest, ?control,
    fun e c entry on => ⟨?configured, atLeast e c entry on⟩, fun e c entry off => ?untouched, last⟩
  case rest => exact congrArg (setPhase .idle) (State.configuredAs_rest _ _)
  case control => rw [setPhase_ep]; exact State.configuredAs_ep_zero _ _
  case configured =>
    rw [setPhase_ep, table e c entry, Endpoint.configuredBy_of_enabled on]
    rfl
  case untouched =>
    rw [setPhase_ep, table e c entry]
    exact if_neg (Bool.eq_false_iff.mp off)

/-! ## CLEAR_FEATURE (R235) -/

theorem halfOfBytes_lo_hi (h : Half) : halfOfBytes h.lo h.hi = h :=
  (BitVec.extractLsb'_append_extractLsb'_eq_extractLsb' (start₂ := 8) (start₁ := 0) rfl).trans
    BitVec.extractLsb'_eq_self

theorem featureEpOf_lo (h : Half) : featureEpOf h.lo = h.extractLsb' 0 7 := by
  apply BitVec.eq_of_getLsbD_eq
  intro i hi
  simp [featureEpOf, Half.lo, hi]

theorem haltTarget_eq_some {feature : Half} {lo : Byte} {e : EpNum} (halt : feature = 0)
    (he : (featureEpOf lo).toNat = e.val) (control : e ≠ 0) : haltTarget feature lo = some e := by
  have positive : 1 ≤ e.val := Nat.one_le_iff_ne_zero.mpr (Fin.val_ne_of_ne control)
  have valid : feature = 0 ∧ 1 ≤ (featureEpOf lo).toNat ∧ (featureEpOf lo).toNat < 5 :=
    ⟨halt, he ▸ positive, he ▸ e.isLt⟩
  rw [haltTarget, dif_pos valid]
  exact congrArg some (Fin.ext he)

theorem haltTarget_eq_none {feature : Half} {lo : Byte}
    (h : feature ≠ 0 ∨ featureEpOf lo = 0 ∨ 4 < (featureEpOf lo).toNat) : haltTarget feature lo = none := by
  refine dif_neg ?_
  rintro ⟨halt, positive, valid⟩
  rcases h with other | zero | above
  · exact other halt
  · rw [zero] at positive; cases positive
  · omega

/-- The lines CLEAR_FEATURE runs for a target. -/
theorem clearFeature_code {args : SetupArgs} {target : Option EpNum} (p : Params) (bm : Byte)
    (h : haltTarget args.wValue args.wIndex.lo = target) :
    handlerBody p .clearFeature (operandsOf .clearFeature (.ofFields bm 0x01 args)) =
      target.elim [.stall] fun e => [.select e, .stall, .epReset, .select 0, .commit] := by
  subst h
  have code : handlerBody p .clearFeature (operandsOf .clearFeature (.ofFields bm 0x01 args)) =
      clearFeatureCode args.wValue args.wIndex.lo :=
    congrArg (clearFeatureCode · args.wIndex.lo) (halfOfBytes_lo_hi args.wValue)
  rw [code, clearFeatureCode]
  cases haltTarget args.wValue args.wIndex.lo <;> rfl

/-- Endpoint `e` emptied and reset, endpoint 0 selected. -/
def State.haltCleared (s : State) (e : EpNum) : State := { s.modEp e Endpoint.flush with epSel := 0 }

theorem State.haltCleared_ep_zero (s : State) {e : EpNum} (control : e ≠ 0) : (s.haltCleared e).ep 0 = s.ep 0 :=
  (State.ep_modEp s e 0 _).trans (if_neg control.symm)

/-- The flush takes back the STALL in front of it (40_port.md R157, R158). -/
theorem afterLines_haltCleared (s : State) (e : EpNum) :
    afterLines [.select e, .stall, .epReset, .select 0] s = s.haltCleared e := by
  have once : portEpReset (portStall (portSelect e s)) = (portSelect e s).modEp e Endpoint.flush := State.modEp_modEp ..
  simp only [afterLines, List.foldl, lineStep, once]
  rfl

theorem runLines_clearHalt {e : EpNum} {s : State} (running : s.halted = false) (control : e ≠ 0)
    (room : (s.ep 0).hasRoom) :
    runLines 5 [.select e, .stall, .epReset, .select 0, .commit] s =
      ({ (s.setEp e (s.ep e).flush).setEp 0 (s.ep 0).commitOrDrop with epSel := 0 }, []) := by
  have unchanged := s.haltCleared_ep_zero control
  have reset := runLines_straight (ls := [.select e, .stall, .epReset, .select 0]) rfl running
  rw [afterLines_haltCleared] at reset
  have commit := runLines_statusCommit (s := s.haltCleared e) running rfl (by rwa [unchanged])
  rw [State.modEp, unchanged] at commit
  exact runLines_append_end reset commit

theorem runLines_stallControl {s : State} (running : s.halted = false) (selected : s.epSel = 0) :
    runLines 1 [.stall] s = (s.modEp 0 fun x => { x with stallReq := true }, []) := by
  rw [runLines_line running rfl rfl (by simp), lineStep, portStall, selected]
  rfl

/-- Settles O37: the target is the endpoint of wIndex[6:0] where the feature is ENDPOINT_HALT, and none otherwise. -/
theorem clearFeature : Obligations.ClearFeature := by
  intro dir cls args s running
  refine ⟨fun e halt he control room => ?cleared, fun other selected => ?stalled⟩
  case cleared =>
    rw [← featureEpOf_lo] at he
    have code := clearFeature_code s.params (bmOfFields dir (if cls then 1 else 0) 2)
      (haltTarget_eq_some halt he control)
    have request := runRequest_returns (i := .clearFeature dir cls args) running (by decide)
      (runLines_clearHalt running control room) code running (by decide)
    exact congrArg _ request
  case stalled =>
    rw [← featureEpOf_lo] at other
    have code := clearFeature_code s.params (bmOfFields dir (if cls then 1 else 0) 2) (haltTarget_eq_none other)
    have request := runRequest_returns (i := .clearFeature dir cls args) running (by decide)
      (runLines_stallControl running selected) code running (by decide)
    exact congrArg _ request

/-! ## SET_IDLE (R236) -/

theorem runLines_setIdle (rate : Byte) {s : State} (running : s.halted = false) (selected : s.epSel = 0)
    (room : (s.ep 0).hasRoom) :
    runLines 3 (setIdleCode rate) s =
      ({ s.modEp 0 Endpoint.commitOrDrop with idleRate := rate, idleCounter := 0 }, []) :=
  runLines_append_end (runLines_straight (ls := [.setIdleRate rate, .setIdleCounter 0]) rfl running)
    (runLines_statusCommit running selected room)

/-- Settles O38: the two writes and the status packet. -/
theorem setIdle : Obligations.SetIdle := by
  intro recipient args s running selected room
  have body := runLines_setIdle args.wValue.hi (s := withRequest (.setIdle recipient args) s) running selected room
  have request := runRequest_returns (r := .setIdle) running (by decide) body rfl running (by decide)
  exact congrArg _ request

/-! ## FATAL (R241) -/

theorem runLines_fatalHalt (req : UsbRequest) {s : State} (running : s.halted = false) :
    runLines 1 [.fatalHalt req] s = (raiseFault (.unhandledRequest req) s, []) :=
  runLines_line running rfl rfl (by simp)

/-- Settles O41: the four lines of FATAL, the last of which halts. -/
theorem fatalHalt : Obligations.FatalHalt := by
  refine ⟨FaultRecord.code_unhandledRequest, fun req s running => ?_⟩
  have logged := runLines_straight (ls := [.emitDiag (.unhandledRequest req), .setI false, .setPhase .halted])
    (s := withRequest (.fatalUnhandled req) s) rfl running
  have body := runLines_append_end logged (runLines_fatalHalt req running)
  have whole := (runLines_request 4 .fatal [] (withRequest (.fatalUnhandled req) s) running).trans body
  refine congrArg Host.Outcome.next ((cpuOp_running running _).trans ?_)
  exact perform_done running (runLines_end_mono whole (by decide))

end Sys2Proof.Machine
end

section
/-! PROOF. The report endpoint engine (43_report.md R290 to R292, R294, R296). REPORT_UPDATE is a run of writes between the
save and the restore of `I`. AUTO_TICK is one line after another up to the test that ends it or up to AUTO_WRITE's lines,
where the number of lines left does not matter (`runLines_dev_fuel`); the cadence is an induction over the ticks, from
the state each of them leaves (`State.ticked`). -/

namespace Sys2Proof.Machine

open Sys2Proof

/-! ## EXPIRED (R294) -/

/-- Settles O21: FRAME's 11-bit difference is the difference modulo 2048. -/
theorem expiredPredicate : Obligations.ExpiredPredicate := by
  intro budget t0 f
  have elapsed : (f - t0).toNat = (f.toNat + 2048 - t0.toNat) % 2048 := by
    rw [BitVec.toNat_sub]
    have bound := t0.isLt
    congr 1
    omega
  rw [expired, decide_eq_true_eq, elapsed]

/-! ## REPORT_UPDATE (R296) -/

/-- The writes of the report's bytes, one line each. -/
theorem runLines_setReportBytes (r : List Byte) (is : List (Fin 8)) {s : State} (running : s.halted = false) :
    runLines is.length (is.map fun i => .setReportByte i (r.getD i.val 0)) s =
      ({ s with report := is.foldl (fun m i => memWrite m i.val (r.getD i.val 0)) s.report }, []) := by
  induction is generalizing s with
  | nil => rfl
  | cons i is ih =>
    rw [List.length_cons, List.map_cons, runLines_line running rfl rfl (by simp)]
    exact ih running

/-- The eight writes in rising order are the write of the list. -/
theorem foldl_memWrite_report (m : Memory) {r : List Byte} (h : r.length = 8) :
    (List.finRange 8).foldl (fun m i => memWrite m i.val (r.getD i.val 0)) m = memWriteList m 0 r :=
  match r, h with
  | [_, _, _, _, _, _, _, _], _ => rfl

theorem perform_reportUpdate {r : List Byte} {s : State} (running : s.halted = false) (h : r.length = 8) :
    perform (reportUpdateCode r) s =
      { s with report := memWriteList s.report 0 r, sendL := { s.sendL with s := s.ie } } := by
  have saved : runLines 2 [.saveI, .setI false] s =
      ({ s with ie := false, sendL := { s.sendL with s := s.ie } }, []) := by
    rw [runLines_line running rfl rfl (by simp)]
    exact runLines_line (by exact running) rfl rfl (by simp)
  have written := runLines_setReportBytes r (List.finRange 8)
    (s := { s with ie := false, sendL := { s.sendL with s := s.ie } }) running
  rw [foldl_memWrite_report _ h] at written
  have restored := runLines_line (n := 0) (l := .restoreI) (ls := [])
    (s := { s with
      ie := false, sendL := { s.sendL with s := s.ie }, report := memWriteList s.report 0 r }) running rfl rfl (by simp)
  have whole := runLines_append_end (runLines_append_end saved written) restored
  exact perform_done running (runLines_end_mono whole (by decide))

/-- Settles O22: the bytes written are the list's, and the `I` restored is the one saved. -/
theorem reportUpdate : Obligations.ReportUpdate := by
  intro r s running wf h
  obtain ⟨⟨reportWf, _⟩, _⟩ := wf
  refine ⟨memWriteList s.report 0 r, congrArg Host.Outcome.next (perform_reportUpdate running h), fun a => ?_⟩
  rw [memRead_memWriteList r 0 a reportWf]
  simp [h]

/-! ## AUTO_WRITE (R292) -/

/-- The endpoint after the report `r` is written to its bank and committed by COMMIT_CLR. -/
def Endpoint.commitReport (r : List Byte) (x : Endpoint) : Endpoint :=
  { x with committed := x.committed ++ [x.cur ++ r], cur := [], nakin := false, stalled := false, rxstp := false }

theorem portCommitClr_room {s : State} (on : (s.ep s.epSel).en = true)
    (free : (s.ep s.epSel).committed.length < bankCount (s.ep s.epSel).banks) :
    portCommitClr s = s.modEp s.epSel fun x => x.commitBank.clearDone := by
  rcases portCommitClr_cases s with ⟨off, _⟩ | ⟨_, full, _⟩ | ⟨_, _, h⟩
  · cases on.symm.trans off
  · exact absurd free (Nat.not_lt.mpr full)
  · exact h

/-- The report's write sequence with room for it. -/
theorem runLines_commitReport {s : State} (running : s.halted = false) (on : (s.ep s.epSel).en = true)
    (free : (s.ep s.epSel).committed.length < bankCount (s.ep s.epSel).banks)
    (room : (s.ep s.epSel).cur.length + 8 ≤ (s.ep s.epSel).size) :
    runLines 17 commitReportCode s =
      (s.modEp s.epSel (Endpoint.commitReport ((List.range 8).map (memRead s.report))), []) := by
  have commit := portCommitClr_room
    (s := s.modEp s.epSel fun x => { x with cur := x.cur ++ (List.range 8).map (memRead s.report) })
    (by simpa using on) (by simpa using free)
  rw [commitReportCode, runLines_writeReport 1 [.commitClr] s running on free room,
    runLines_line (by exact running) rfl rfl (by simp), lineStep, commit, State.modEp_epSel, State.modEp_modEp]
  rfl

theorem runLines_autoWrite (n : Nat) {s : State} (running : s.halted = false) :
    runLines (n + 2) autoWriteCode s =
      runLines n (if (s.ep s.params.reportEp).wral then commitReportCode else [])
        { s with epSel := s.params.reportEp } := by
  rw [autoWriteCode, runLines_line running rfl rfl (by simp)]
  simp only [lineStep, List.nil_append]
  rw [runLines_line (by exact running) rfl rfl (by simp)]
  simp only [lineStep, List.append_nil]
  rfl

/-- Settles O27: the report endpoint selected, and then the report's write sequence or nothing. -/
theorem autoWrite : Obligations.AutoWrite := by
  intro s running
  refine ⟨fun full => ?skipped, fun on free room => ?written⟩ <;>
    refine congrArg Host.Outcome.next (perform_done running ((runLines_autoWrite 1022 running).trans ?_))
  case skipped =>
    rw [full]
    exact runLines_nil _ _
  case written =>
    have wral : (s.ep s.params.reportEp).wral = true := (Endpoint.wral_iff _).mpr ⟨on, free, by omega⟩
    rw [wral]
    exact runLines_end_mono
      (runLines_commitReport (s := { s with epSel := s.params.reportEp }) running on free room) (by decide)

/-! ## AUTO_TICK (R290) -/

theorem runLines_tick_inactive (n : Nat) {s : State} (running : s.halted = false)
    (inactive : s.usbConfiguration = 0 ∨ s.idleRate = 0) : runLines (n + 2) autoTickCode s = (s, []) := by
  rw [autoTickCode, runLines_line running rfl rfl (by simp)]
  by_cases cfg : s.usbConfiguration = 0
  · simp only [lineStep, if_pos cfg, List.nil_append, runLines_nil]
  · simp only [lineStep, if_neg cfg, List.cons_append, List.nil_append]
    rw [runLines_line running rfl rfl (by simp)]
    simp only [lineStep, if_pos (inactive.resolve_left cfg), List.nil_append, runLines_nil]

/-- Up to the test of the divider. -/
theorem runLines_tick_divide (n : Nat) {s : State} (running : s.halted = false) (cfg : s.usbConfiguration ≠ 0)
    (rate : s.idleRate ≠ 0) :
    runLines (n + 5) autoTickCode s =
      runLines n (if s.sofDiv + 1 = 0 then [.tickCount] else []) { s with sofDiv := s.sofDiv + 1 } := by
  rw [autoTickCode, runLines_line running rfl rfl (by simp)]
  simp only [lineStep, if_neg cfg, List.cons_append, List.nil_append]
  rw [runLines_line running rfl rfl (by simp)]
  simp only [lineStep, if_neg rate, List.cons_append, List.nil_append]
  rw [runLines_line running rfl rfl (by simp)]
  simp only [lineStep, List.cons_append, List.nil_append]
  rw [runLines_line running rfl rfl (by simp)]
  simp only [lineStep, List.nil_append]
  rw [runLines_line (by exact running) rfl rfl (by simp)]
  simp only [lineStep, List.append_nil]

/-- From the increment of the count up to its test. -/
theorem runLines_tick_count (n : Nat) {s : State} (running : s.halted = false) :
    runLines (n + 4) [.tickCount] s =
      runLines n (if s.idleCounter + 1 = s.idleRate then .setIdleCounter 0 :: autoWriteCode else [])
        { s with idleCounter := s.idleCounter + 1 } := by
  rw [runLines_line running rfl rfl (by simp)]
  simp only [lineStep, List.cons_append, List.nil_append]
  rw [runLines_line running rfl rfl (by simp)]
  simp only [lineStep, List.nil_append]
  rw [runLines_line (by exact running) rfl rfl (by simp)]
  simp only [lineStep, List.cons_append, List.nil_append]
  rw [runLines_line (by exact running) rfl rfl (by simp)]
  simp only [lineStep, List.append_nil]

/-- Two operations whose lines run to the same end are the same. -/
theorem perform_congr {ls ls' : List Line} {s t : State} (running : s.halted = false) (running' : t.halted = false)
    (h : runLines lineBound ls s = runLines lineBound ls' t) : perform ls s = perform ls' t := by
  rw [perform_parked running rfl, perform_parked running' rfl, h]

/-- Settles O28: the lines up to the test that ends the tick, or up to AUTO_WRITE's own. -/
theorem autoTick : Obligations.AutoTick := by
  intro s running
  refine ⟨fun inactive => ?inactive, fun cfg rate div => ?divided, fun cfg rate div below => ?counted,
    fun cfg rate div reached => ?due⟩ <;> refine congrArg Host.Outcome.next ?_
  case inactive => exact perform_done running (runLines_tick_inactive 1022 running inactive)
  case divided =>
    have goesOn : ¬ s.sofDiv + 1 = 0 := by bv_omega
    refine perform_done running ((runLines_tick_divide 1019 running cfg rate).trans ?_)
    rw [if_neg goesOn, runLines_nil]
  case counted =>
    refine perform_done running ((runLines_tick_divide 1019 running cfg rate).trans ?_)
    rw [div, if_pos (by decide), runLines_tick_count 1015 (by exact running), if_neg below, runLines_nil]
    rfl
  case due =>
    refine perform_congr running (by exact running) ((runLines_tick_divide 1019 running cfg rate).trans ?_)
    have fuel : runLines 1014 autoWriteCode { s with sofDiv := 0, idleCounter := 0 } =
        runLines lineBound autoWriteCode { s with sofDiv := 0, idleCounter := 0 } :=
      runLines_dev_fuel rfl (by decide) (by decide)
    rw [div, if_pos (by decide), runLines_tick_count 1015 (by exact running), if_pos reached,
      runLines_line (by exact running) rfl rfl (by simp)]
    exact fuel

/-! ## The cadence (R291) -/

/-- The state after `k` ticks since the divider and the count were 0, before the count reaches the rate. -/
def State.ticked (s : State) (k : Nat) : State :=
  { s with sofDiv := BitVec.ofNat 2 k, idleCounter := BitVec.ofNat 8 (k / 4) }

theorem State.ticked_zero {s : State} (count : s.idleCounter = 0) (div : s.sofDiv = 0) : s.ticked 0 = s := by
  cases s
  cases count
  cases div
  rfl

/-- The tick after `k`, where it does not reach the rate: the divider advances, and the count with every fourth. -/
theorem exec_autoTick_ticked {s : State} {k : Nat} (running : s.halted = false) (cfg : s.usbConfiguration ≠ 0)
    (rate : s.idleRate ≠ 0) (below : k + 1 < 4 * s.idleRate.toNat) :
    exec .autoTick (s.ticked k) = .next (s.ticked (k + 1)) := by
  obtain ⟨_, divides, counts, _⟩ := autoTick (s.ticked k) running
  by_cases last : k % 4 = 3
  · have div : BitVec.ofNat 2 k = 3 := by bv_omega
    have div' : BitVec.ofNat 2 (k + 1) = 0 := by bv_omega
    have count : BitVec.ofNat 8 (k / 4) + 1 = BitVec.ofNat 8 ((k + 1) / 4) := by
      rw [show (k + 1) / 4 = k / 4 + 1 by omega]; bv_omega
    have notYet : BitVec.ofNat 8 (k / 4) + 1 ≠ s.idleRate := by bv_omega
    rw [counts cfg rate div notYet, State.ticked, State.ticked, count, div']
  · have div : BitVec.ofNat 2 k ≠ 3 := by bv_omega
    have div' : BitVec.ofNat 2 k + 1 = BitVec.ofNat 2 (k + 1) := by bv_omega
    have count : (k + 1) / 4 = k / 4 := by omega
    rw [divides cfg rate div, State.ticked, State.ticked, count]
    exact congrArg (fun d => Host.Outcome.next { s with sofDiv := d, idleCounter := BitVec.ofNat 8 (k / 4) }) div'

/-- The 4 R-th tick is AUTO_WRITE with the divider and the count back at 0. -/
theorem exec_autoTick_due {s : State} {k : Nat} (running : s.halted = false) (cfg : s.usbConfiguration ≠ 0)
    (rate : s.idleRate ≠ 0) (due : k + 1 = 4 * s.idleRate.toNat) :
    exec .autoTick (s.ticked k) = exec .autoWrite (s.ticked 0) := by
  obtain ⟨_, _, _, writes⟩ := autoTick (s.ticked k) running
  have div : BitVec.ofNat 2 k = 3 := by bv_omega
  have reached : BitVec.ofNat 8 (k / 4) + 1 = s.idleRate := by bv_omega
  exact writes cfg rate div reached

theorem runOps_append_single {is : List Instr} {i : Instr} {s t : State} (h : runOps is s = .next t) :
    runOps (is ++ [i]) s = exec i t := by
  induction is generalizing s with
  | nil =>
    obtain rfl := Host.Outcome.next.inj h
    simp only [List.nil_append, runOps]
    cases exec i s <;> rfl
  | cons j is ih =>
    simp only [runOps, List.cons_append] at h ⊢
    cases hj : exec j s with
    | next u => rw [hj] at h; exact ih h
    | fault r => rw [hj] at h; cases h
    | refused r => rw [hj] at h; cases h

theorem runOps_ticks {s : State} {k : Nat} (running : s.halted = false) (cfg : s.usbConfiguration ≠ 0)
    (rate : s.idleRate ≠ 0) (count : s.idleCounter = 0) (div : s.sofDiv = 0) (below : k < 4 * s.idleRate.toNat) :
    runOps (List.replicate k .autoTick) s = .next (s.ticked k) := by
  induction k with
  | zero => rw [State.ticked_zero count div]; rfl
  | succ k ih =>
    rw [List.replicate_succ', runOps_append_single (ih (Nat.lt_of_succ_lt below)),
      exec_autoTick_ticked running cfg rate below]

/-- Settles O29, by induction over the ticks before the 4 R-th. -/
theorem autonomousCadence : Obligations.AutonomousCadence := by
  intro s k running cfg rate count div
  refine ⟨runOps_ticks running cfg rate count div, fun due => ?_⟩
  have positive : 0 < s.idleRate.toNat := Nat.pos_of_ne_zero fun h => rate (BitVec.eq_of_toNat_eq h)
  obtain ⟨j, rfl⟩ := Nat.exists_eq_add_of_le' (show 1 ≤ k by omega)
  rw [List.replicate_succ', runOps_append_single (runOps_ticks running cfg rate count div (by omega)),
    exec_autoTick_due running cfg rate due, State.ticked_zero count div]

end Sys2Proof.Machine
end

section
/-! PROOF. Room in the banks (43_report.md R292, R297(b)): the port. `RoomAt k s` says endpoint by endpoint what
`PortShape` and `RoomHolds` say of the state. It goes through whatever relieves the port (`Relieves`: what a line or a
host action takes out of the banks), through COMMIT and FIFO_WRITE where there is room, and through what is known
being forgotten. -/

namespace Sys2Proof.Machine

open Sys2Proof

/-! ## One endpoint -/

/-- What `PortShape` asks of endpoint `e`. -/
structure Endpoint.Shaped (p : Params) (e : EpNum) (x : Endpoint) : Prop where
  banks : x.committed.length ≤ bankCount x.banks
  disabled : x.en = false → x.cur = [] ∧ x.committed = []
  control : e = 0 → x.en = true → x.banks = .one ∧ x.size = 32
  table : e ≠ 0 → x.en = true → ∃ c, p.epConfig e = some c ∧ x.banks = c.banks ∧ x.size = c.size
  flushed : e = 0 → x.rxstp = true → x.cur = [] ∧ x.committed = []

/-- What `RoomHolds` says of endpoint `e`. -/
structure Endpoint.Known (p : Params) (k : Room) (e : EpNum) (x : Endpoint) : Prop where
  cur : x.cur.length ≤ if k.sel = some e then k.cur else 0
  acked : e = 0 → k.acked = true → x.rxstp = false
  free0 : e = 0 → k.free0 = true → x.hasRoom
  freeReport : e = p.reportEp → k.freeReport = true → x.hasRoom

/-- `y` has the shape of `x` and holds no more than `x` does. -/
structure Endpoint.Eases (x y : Endpoint) : Prop where
  en : y.en = true → x.en = true
  banks : y.banks = x.banks
  size : y.size = x.size
  rxstp : y.rxstp = true → x.rxstp = true
  cur : y.cur.length ≤ x.cur.length
  committed : y.committed.length ≤ x.committed.length
  disabled : y.en = false → x.en = false ∨ y.cur = [] ∧ y.committed = []

variable {p : Params} {k j : Room} {e : EpNum} {x y : Endpoint}

theorem Endpoint.Eases.refl (x : Endpoint) : x.Eases x := ⟨id, rfl, rfl, id, Nat.le_refl _, Nat.le_refl _, .inl⟩

theorem Endpoint.Eases.of_eq (en : y.en = x.en) (banks : y.banks = x.banks) (size : y.size = x.size)
    (rxstp : y.rxstp = true → x.rxstp = true) (cur : y.cur = x.cur) (committed : y.committed = x.committed) :
    x.Eases y :=
  ⟨fun on => en.symm.trans on, banks, size, rxstp, Nat.le_of_eq (congrArg _ cur), Nat.le_of_eq (congrArg _ committed),
    fun off => .inl (en.symm.trans off)⟩

theorem Endpoint.Eases.empty (h : x.Eases y) (hx : x.cur = [] ∧ x.committed = []) : y.cur = [] ∧ y.committed = [] := by
  have cur := h.cur
  have committed := h.committed
  rw [hx.1] at cur
  rw [hx.2] at committed
  exact ⟨List.eq_nil_of_length_eq_zero (Nat.le_zero.mp cur), List.eq_nil_of_length_eq_zero (Nat.le_zero.mp committed)⟩

theorem Endpoint.Eases.hasRoom (h : x.Eases y) (room : x.hasRoom) : y.hasRoom := fun on =>
  h.banks ▸ Nat.lt_of_le_of_lt h.committed (room (h.en on))

theorem Endpoint.Shaped.eases (hx : x.Shaped p e) (h : x.Eases y) : y.Shaped p e where
  banks := h.banks ▸ h.committed.trans hx.banks
  disabled off := (h.disabled off).elim (fun off' => h.empty (hx.disabled off')) id
  control he on := by rw [h.banks, h.size]; exact hx.control he (h.en on)
  table he on := by rw [h.banks, h.size]; exact hx.table he (h.en on)
  flushed he unread := h.empty (hx.flushed he (h.rxstp unread))

theorem Endpoint.Known.eases (hx : x.Known p k e) (h : x.Eases y) : y.Known p k e where
  cur := h.cur.trans hx.cur
  acked he ha := Bool.eq_false_of_not_eq_true fun unread =>
    Bool.eq_false_iff.mp (hx.acked he ha) (h.rxstp unread)
  free0 he hf := h.hasRoom (hx.free0 he hf)
  freeReport he hf := h.hasRoom (hx.freeReport he hf)

theorem Endpoint.Known.cur_eq_nil (hx : x.Known p k e) (h : k.cur = 0 ∨ k.sel ≠ some e) : x.cur = [] := by
  have cur := hx.cur
  refine List.eq_nil_of_length_eq_zero (Nat.le_zero.mp ?_)
  rcases h with h | h
  · simpa [h] using cur
  · simpa [h] using cur

/-- Where less is known, that holds too; an empty CUR is within any bound. -/
theorem Endpoint.Known.weaken (hx : x.Known p k e) (cur : x.cur = []) (acked : j.acked = true → k.acked = true)
    (free0 : j.free0 = true → k.free0 = true) (freeReport : j.freeReport = true → k.freeReport = true) :
    x.Known p j e where
  cur := by rw [cur]; exact Nat.zero_le _
  acked he ha := hx.acked he (acked ha)
  free0 he hf := hx.free0 he (free0 hf)
  freeReport he hf := hx.freeReport he (freeReport hf)

/-! ## The port -/

/-- The port where `k` is known of it: `PortShape` and `RoomHolds` endpoint by endpoint, but for the normal form of
`k` (`Room.Settled`). -/
structure RoomAt (k : Room) (s : State) : Prop where
  valid : s.params.valid = true
  ie : s.ie = true → k.ie = true
  sel : ∀ e, k.sel = some e → s.epSel = e
  busy : k.busy = true ∨ k.acked = true → s.ce.phase ≠ .idle ∧ s.ce.phase ≠ .halted
  shape : ∀ e, (s.ep e).Shaped s.params e
  known : ∀ e, (s.ep e).Known s.params k e

/-- Nothing is relied on where `I` may be 1. -/
def Room.Settled (k : Room) : Prop := k.ie = true → k = .start true

/-- The normal form of what is known. -/
def Room.settle (k : Room) : Room := if k.ie then .start true else k

variable {s t : State}

theorem portShape_iff : PortShape s ↔ ∀ e, (s.ep e).Shaped s.params e where
  mp h e := ⟨h.banks e, h.disabled e, fun he => he ▸ h.control, h.table e, fun he => he ▸ h.flushed⟩
  mpr h := ⟨fun e => (h e).banks, fun e => (h e).disabled, (h 0).control rfl, fun e => (h e).table, (h 0).flushed rfl⟩

theorem RoomAt.of_roomHolds (valid : s.params.valid = true) (shape : PortShape s) (h : RoomHolds k s) : RoomAt k s where
  valid := valid
  ie := h.ie
  sel := h.sel
  busy := h.busy
  shape := portShape_iff.mp shape
  known e := ⟨h.cur e, fun he => he ▸ h.acked, fun he => he ▸ h.free0, fun he => he ▸ h.freeReport⟩

theorem RoomAt.roomHolds (h : RoomAt k s) (settled : k.Settled) : RoomHolds k s where
  ie := h.ie
  settled := settled
  sel := h.sel
  cur e := (h.known e).cur
  busy := h.busy
  acked := (h.known 0).acked rfl
  free0 := (h.known 0).free0 rfl
  freeReport := (h.known _).freeReport rfl

/-- With every CUR empty, less may be relied on. -/
theorem RoomAt.weaken (h : RoomAt k s) (empty : k.cur = 0) (le : RoomLe k j) : RoomAt j s where
  valid := h.valid
  ie on := le.ie (h.ie on)
  sel e he := h.sel e (le.sel e he)
  busy hb := h.busy (hb.imp le.busy le.acked)
  shape := h.shape
  known e := (h.known e).weaken ((h.known e).cur_eq_nil (.inl empty)) le.acked le.free0 le.freeReport

theorem Room.settle_settled (k : Room) : k.settle.Settled := by
  unfold Room.settle
  split
  case isTrue => exact fun _ => rfl
  case isFalse off => exact fun on => absurd on off

theorem Room.Settled.settle_eq (h : k.Settled) : k.settle = k := by
  unfold Room.settle
  split
  case isTrue on => exact (h on).symm
  case isFalse => rfl

theorem RoomAt.settle (h : RoomAt k s) (empty : k.ie = true → k.cur = 0) : RoomAt k.settle s := by
  unfold Room.settle
  split
  case isTrue on => exact h.weaken (empty on) (.to_start (empty on))
  case isFalse => exact h

/-- `t` differs from `s` in nothing that room depends on, but for endpoints that hold less and an `I` that is lower. -/
structure Relieves (s t : State) : Prop where
  params : t.params = s.params
  epSel : t.epSel = s.epSel
  phase : t.ce.phase = s.ce.phase
  ie : t.ie = true → s.ie = true
  ep : ∀ e, (s.ep e).Eases (t.ep e)

theorem PortShape.relieved (h : PortShape s) (r : Relieves s t) : PortShape t :=
  portShape_iff.mpr fun e => r.params ▸ (portShape_iff.mp h e).eases (r.ep e)

theorem RoomAt.relieved (h : RoomAt k s) (r : Relieves s t) : RoomAt k t where
  valid := r.params ▸ h.valid
  ie on := h.ie (r.ie on)
  sel e he := r.epSel.trans (h.sel e he)
  busy hb := r.phase ▸ h.busy hb
  shape e := r.params ▸ (h.shape e).eases (r.ep e)
  known e := r.params ▸ (h.known e).eases (r.ep e)

theorem Relieves.modEp {f : Endpoint → Endpoint} (hf : (s.ep e).Eases (f (s.ep e))) : Relieves s (s.modEp e f) where
  params := rfl
  epSel := rfl
  phase := rfl
  ie := id
  ep e' := by
    rw [State.ep_modEp]
    split
    case isTrue he => subst he; exact hf
    case isFalse => exact .refl _

/-- One endpoint is changed, and with it what is known of the port. -/
theorem RoomAt.modEp {f : Endpoint → Endpoint} (h : RoomAt k s) (ie : k.ie = true → j.ie = true)
    (sel : ∀ e, j.sel = some e → k.sel = some e)
    (busy : j.busy = true ∨ j.acked = true → k.busy = true ∨ k.acked = true)
    (shape : (f (s.ep e)).Shaped s.params e) (known : (f (s.ep e)).Known s.params j e)
    (others : ∀ e', e' ≠ e → (s.ep e').Known s.params j e') : RoomAt j (s.modEp e f) where
  valid := h.valid
  ie on := ie (h.ie on)
  sel e he := h.sel e (sel e he)
  busy hb := h.busy (busy hb)
  shape e' := by
    rw [State.ep_modEp]
    split
    case isTrue he => subst he; exact shape
    case isFalse => exact h.shape e'
  known e' := by
    rw [State.ep_modEp]
    split
    case isTrue he => subst he; exact known
    case isFalse he => exact others e' he

/-! ## Writing and committing -/

/-- A change of an endpoint that is dropped where it is disabled (40_port.md R153, R154, R156). -/
def Endpoint.orDrop (f : Endpoint → Endpoint) (x : Endpoint) : Endpoint := if x.en then f x else x

theorem Endpoint.orDrop_induction {f : Endpoint → Endpoint} {P : Endpoint → Prop} (on : x.en = true → P (f x))
    (off : x.en = false → P x) : P (x.orDrop f) := by
  unfold Endpoint.orDrop
  split
  case isTrue h => exact on h
  case isFalse h => exact off (Bool.eq_false_of_not_eq_true h)

/-- The endpoint with one more byte in the bank being filled. -/
def Endpoint.push (b : Byte) (x : Endpoint) : Endpoint := { x with cur := x.cur ++ [b] }

theorem State.modEp_orDrop_off {f : Endpoint → Endpoint} (off : (s.ep e).en = false) : s.modEp e (.orDrop f) = s :=
  State.modEp_id _ _ _ (by simp [Endpoint.orDrop, off])

theorem State.modEp_orDrop_on {f : Endpoint → Endpoint} (on : (s.ep e).en = true) :
    s.modEp e (.orDrop f) = s.modEp e f := by
  rw [State.modEp, State.modEp, Endpoint.orDrop, if_pos on]

theorem portFifoWrite_hasRoom (b : Byte) (room : (s.ep s.epSel).hasRoom)
    (size : (s.ep s.epSel).en = true → (s.ep s.epSel).cur.length < (s.ep s.epSel).size) :
    portFifoWrite b s = s.modEp s.epSel (.orDrop (.push b)) := by
  rcases portFifoWrite_cases b s with ⟨off, h⟩ | ⟨on, full, _⟩ | ⟨wral, h⟩
  · rw [h, State.modEp_orDrop_off off]
  · exact absurd full (not_or.mpr ⟨Nat.not_le.mpr (room on), Nat.not_le.mpr (size on)⟩)
  · obtain ⟨on, _⟩ := (Endpoint.wral_iff _).mp wral
    rw [h, State.modEp_orDrop_on on]
    rfl

theorem portCommitClr_hasRoom (room : (s.ep s.epSel).hasRoom) :
    portCommitClr s = s.modEp s.epSel (.orDrop fun x => x.commitBank.clearDone) := by
  rcases portCommitClr_cases s with ⟨off, h⟩ | ⟨on, full, _⟩ | ⟨on, _, h⟩
  · rw [h, State.modEp_orDrop_off off]
  · exact absurd (room on) (Nat.not_lt.mpr full)
  · rw [h, State.modEp_orDrop_on on]

theorem Endpoint.clearDone_eases (x : Endpoint) : x.Eases x.clearDone :=
  { Endpoint.Eases.refl x with rxstp := fun h => absurd h Bool.false_ne_true }

theorem Endpoint.flush_eases (x : Endpoint) : x.Eases x.flush :=
  { Endpoint.Eases.refl x with
    rxstp := fun h => absurd h Bool.false_ne_true
    cur := Nat.zero_le _
    committed := Nat.zero_le _
    disabled := fun _ => .inr ⟨rfl, rfl⟩ }

/-- An endpoint that may be written: its bank has room, and it holds no unread SETUP. -/
structure Endpoint.Writable (e : EpNum) (x : Endpoint) : Prop where
  room : x.hasRoom
  acked : e = 0 → x.rxstp = false

theorem Endpoint.Shaped.commitBank (hx : x.Shaped p e) (w : x.Writable e) (on : x.en = true) :
    x.commitBank.Shaped p e where
  banks := by simpa [Endpoint.commitBank] using w.room on
  disabled off := absurd on (Bool.eq_false_iff.mp off)
  control := hx.control
  table := hx.table
  flushed he unread := absurd unread (Bool.eq_false_iff.mp (w.acked he))

theorem Endpoint.Shaped.push {b : Byte} (hx : x.Shaped p e) (w : x.Writable e) (on : x.en = true) :
    (x.push b).Shaped p e :=
  { hx with
    disabled := fun off => absurd on (Bool.eq_false_iff.mp off)
    flushed := fun he unread => absurd unread (Bool.eq_false_iff.mp (w.acked he)) }

/-- COMMIT and COMMIT_CLR on the selected endpoint `e` with room: CUR is empty, and no bank of `e` is known to be
free. -/
theorem RoomAt.commit {f : Endpoint → Endpoint} (h : RoomAt k s) (sel : k.sel = some e) (w : (s.ep e).Writable e)
    (hf : ∀ x : Endpoint, x.commitBank.Eases (f x)) {free0 freeReport : Bool}
    (h0 : free0 = true → e ≠ 0 ∧ k.free0 = true)
    (hr : freeReport = true → e ≠ s.params.reportEp ∧ k.freeReport = true) :
    RoomAt { k with free0 := free0, freeReport := freeReport, cur := 0 } (s.modEp e (.orDrop f)) := by
  refine h.modEp id (fun _ => id) id ?shape ?known fun e' he' => ?others
  case shape =>
    exact Endpoint.orDrop_induction (fun on => ((h.shape e).commitBank w on).eases (hf _)) fun _ => h.shape e
  case known =>
    have cur : ((s.ep e).orDrop f).cur = [] := Endpoint.orDrop_induction (P := fun y => y.cur = [])
      (fun _ => List.eq_nil_of_length_eq_zero (Nat.le_zero.mp (hf _).cur)) fun off => ((h.shape e).disabled off).1
    have rxstp (he : e = 0) : ((s.ep e).orDrop f).rxstp = false :=
      Endpoint.orDrop_induction (P := fun y => y.rxstp = false)
        (fun _ => Bool.eq_false_of_not_eq_true fun unread =>
          Bool.eq_false_iff.mp (w.acked he) ((hf _).rxstp unread)) fun _ => w.acked he
    exact
      { cur := by rw [cur]; exact Nat.zero_le _
        acked := fun he _ => rxstp he
        free0 := fun he hf0 => absurd he (h0 hf0).1
        freeReport := fun he hfr => absurd he (hr hfr).1 }
  case others =>
    have other : k.sel ≠ some e' := fun hs => he' (Option.some.inj (hs.symm.trans sel))
    exact (h.known e').weaken ((h.known e').cur_eq_nil (.inr other)) id (fun hf0 => (h0 hf0).2) fun hfr => (hr hfr).2

/-- FIFO_WRITE on the selected endpoint `e` with room. -/
theorem RoomAt.push (b : Byte) (h : RoomAt k s) (sel : k.sel = some e) (w : (s.ep e).Writable e) :
    RoomAt { k with cur := k.cur + 1 } (s.modEp e (.orDrop (.push b))) := by
  refine h.modEp id (fun _ => id) id ?shape ?known fun e' he' => ?others
  case shape => exact Endpoint.orDrop_induction (fun on => (h.shape e).push w on) fun _ => h.shape e
  case known =>
    have known := h.known e
    have cur := known.cur
    rw [if_pos sel] at cur
    refine Endpoint.orDrop_induction (P := fun y => y.Known s.params { k with cur := k.cur + 1 } e)
      (fun _ => ?_) fun _ => ?_
    · exact { known with cur := by simpa [Endpoint.push, sel] using cur }
    · exact { known with cur := by rw [if_pos sel]; exact Nat.le_succ_of_le cur }
  case others =>
    have other : k.sel ≠ some e' := fun hs => he' (Option.some.inj (hs.symm.trans sel))
    exact (h.known e').weaken ((h.known e').cur_eq_nil (.inr other)) id id id

/-! ## What lets a line write -/

theorem Params.valid_report (valid : p.valid = true) :
    p.reportEp ≠ 0 ∧ ∀ c, p.epConfig p.reportEp = some c → 8 ≤ c.size := by
  simp only [Params.valid, Bool.and_eq_true] at valid
  obtain ⟨⟨⟨⟨report, _⟩, _⟩, _⟩, _⟩ := valid
  cases hc : p.epConfig p.reportEp with
  | none => rw [hc] at report; cases report
  | some c =>
    simp only [hc, Bool.and_eq_true, decide_eq_true_eq] at report
    exact ⟨epConfig_ne_zero hc, fun c' hc' => Option.some.inj hc' ▸ report.2⟩

theorem Room.control_iff : k.control = true ↔ k.sel = some 0 ∧ k.acked = true ∧ k.free0 = true := by
  simp only [Room.control, Bool.and_eq_true, beq_iff_eq, and_assoc]

theorem RoomAt.writable_control (h : RoomAt k s) (control : k.control = true) : (s.ep 0).Writable 0 :=
  have ⟨_, acked, free⟩ := Room.control_iff.mp control
  ⟨(h.known 0).free0 rfl free, fun _ => (h.known 0).acked rfl acked⟩

theorem RoomAt.writable_report (h : RoomAt k s) (free : k.freeReport = true) :
    (s.ep s.params.reportEp).Writable s.params.reportEp :=
  ⟨(h.known _).freeReport rfl free, fun he => absurd he (Params.valid_report h.valid).1⟩

/-- Where the checker lets a byte be written, there is room for it (R156). -/
theorem RoomAt.write (h : RoomAt k s) (write : k.write s.params = some j) :
    j = { k with cur := k.cur + 1 } ∧ ∃ e, k.sel = some e ∧ (s.ep e).Writable e ∧
      ((s.ep e).en = true → (s.ep e).cur.length < (s.ep e).size) := by
  simp only [Room.write, Room.when_eq_some, Bool.or_eq_true, Bool.and_eq_true, beq_iff_eq, decide_eq_true_eq] at write
  obtain ⟨⟨control, below⟩ | ⟨⟨sel, free⟩, below⟩, rfl⟩ := write
  · obtain ⟨sel, _, _⟩ := Room.control_iff.mp control
    refine ⟨rfl, 0, sel, h.writable_control control, fun on => ?_⟩
    have cur := (h.known 0).cur
    rw [if_pos sel] at cur
    rw [((h.shape 0).control rfl on).2]
    omega
  · refine ⟨rfl, _, sel, h.writable_report free, fun on => ?_⟩
    obtain ⟨notControl, large⟩ := Params.valid_report h.valid
    obtain ⟨c, hc, _, size⟩ := (h.shape _).table notControl on
    have cur := (h.known s.params.reportEp).cur
    have room := large c hc
    rw [if_pos sel] at cur
    omega

end Sys2Proof.Machine
end

section
/-! PROOF. Room in the banks (R292, R297(b)): the checker. `SafeInFront p k ls j` says that the lines `ls` are safe at
`k` in front of whatever is safe at `j`; each procedure that a line expands to is safe at what the line is checked
with. -/

namespace Sys2Proof.Machine

open Sys2Proof

variable {p : Params} {k j m : Room}

/-! ## Lines put in front of a safe rest -/

/-- Lines that are safe at `k` in front of any rest that is safe at `j`. -/
def SafeInFront (p : Params) (k : Room) (ls : List Line) (j : Room) : Prop :=
  ∀ rest, roomSafe p j rest = true → roomSafe p k (ls ++ rest) = true

theorem SafeInFront.of_le (h : RoomLe k j) : SafeInFront p k [] j := fun _ safe => roomSafe_mono h safe

theorem SafeInFront.nil : SafeInFront p k [] k := fun _ safe => safe

theorem SafeInFront.cons {l : Line} {ls : List Line} (hl : roomAfter p k l = some m) (h : SafeInFront p m ls j) :
    SafeInFront p k (l :: ls) j := fun rest safe => roomSafe_cons.mpr ⟨m, hl, h rest safe⟩

theorem SafeInFront.append {ls ls' : List Line} (h : SafeInFront p k ls m) (h' : SafeInFront p m ls' j) :
    SafeInFront p k (ls ++ ls') j := fun rest safe => by
  rw [List.append_assoc]
  exact h _ (h' rest safe)

theorem SafeInFront.weaken {ls : List Line} (h : SafeInFront p k ls m) (le : RoomLe m j) : SafeInFront p k ls j :=
  fun rest safe => h rest (roomSafe_mono le safe)

/-- Whatever is known with `I` = 0 and every CUR empty is at least nothing. -/
theorem RoomLe.to_start_off (off : k.ie = false) (empty : k.cur = 0) : RoomLe k (.start false) :=
  { RoomLe.to_start empty with ie := fun on => absurd on (Bool.eq_false_iff.mp off) }

/-! ## A line that is safe -/

theorem roomAfter_eq_some {l : Line} : roomAfter p k l = some j ↔
    (inBank l = false → k.cur = 0) ∧ ∃ m, roomLine p k l = some m ∧ (m.ie = true → m.cur = 0) ∧ j = m.settle := by
  unfold roomAfter
  cases hb : inBank l <;> by_cases hk : k.cur = 0 <;> cases hm : roomLine p k l with
  | none => simp [hk]
  | some m => cases hie : m.ie <;> simp [hk, hie, Room.settle, eq_comm (a := j)]

/-- Lines that leave what is known as it is. -/
def keepsKnown : Line → Bool
  | .select _ | .selectReport | .ackSetup | .commit | .commitClr | .fifoWrite _ | .readReport _ | .cwByte _
  | .cwSource _ | .epConfigure _ | .setPhase _ | .setI _ | .restoreI | .boot | .readDevint | .tickConfiguration
  | .tickRate | .tickDivide | .tickDivided | .tickCount | .tickCompare | .tickCompareRate _ | .autoStatus
  | .setupStatus | .dispatch | .dispatchOn _ | .operand _ _ | .descLength _ _ | .waitTxrdy | .cwWait | .cwFill
  | .cwLoop _ | .syncCheck | .remapReport _ | .sendEntry | .sendPoll | .sendPollAgain | .sendConfiguration
  | .sendExpired => false
  | _ => true

theorem roomLine_keepsKnown {l : Line} (h : keepsKnown l = true) : roomLine p k l = some k := by
  cases l <;> cases h <;> rfl

theorem Room.Settled.cur_eq_zero (h : k.Settled) (on : k.ie = true) : k.cur = 0 := by rw [h on]; rfl

theorem roomAfter_keepsKnown {l : Line} (h : keepsKnown l = true) (settled : k.Settled)
    (cur : inBank l = false → k.cur = 0) : roomAfter p k l = some k :=
  roomAfter_eq_some.mpr ⟨cur, k, roomLine_keepsKnown h, settled.cur_eq_zero, settled.settle_eq.symm⟩

theorem SafeInFront.keepsKnown {ls : List Line} (settled : k.Settled)
    (h : ∀ l ∈ ls, Machine.keepsKnown l = true ∧ (inBank l = false → k.cur = 0)) : SafeInFront p k ls k := by
  induction ls with
  | nil => exact .nil
  | cons l ls ih =>
    obtain ⟨⟨hl, cur⟩, rest⟩ := List.forall_mem_cons.mp h
    exact .cons (roomAfter_keepsKnown hl settled cur) (ih rest)

/-- What a keepsKnown line puts in front is plain, and inside a write sequence where the line is. -/
theorem lineStep_keepsKnown {l : Line} (h : keepsKnown l = true) (s : State) :
    (lineStep l s).2.all (fun l' => keepsKnown l' && (inBank l' || !inBank l)) = true := by
  cases l <;> cases h
  case delay => simp only [lineStep]; split <;> rfl
  case sample raw => cases raw <;> rfl
  case decodeByte => simp only [lineStep, decodeFrom]; split <;> rfl
  all_goals rfl

/-- Lines that write a byte of the bank, or lead to such a line. -/
def writesByte : Line → Bool
  | .fifoWrite _ | .readReport _ | .cwByte _ | .cwSource _ => true
  | _ => false

theorem roomLine_writesByte {l : Line} (h : writesByte l = true) : inBank l = true ∧ roomLine p k l = k.write p := by
  cases l
  case fifoWrite | readReport | cwByte | cwSource => exact ⟨rfl, rfl⟩
  all_goals cases h

/-! ## Control transfers (42_control.md) -/

/-- What is known inside a control transfer: endpoint 0 selected, the SETUP acknowledged, a bank free. -/
def Room.transfer (busy freeReport : Bool) (cur : Nat) : Room :=
  { ie := false, sel := some 0, busy := busy, acked := true, free0 := true, freeReport := freeReport, cur := cur }

variable {busy freeReport : Bool}

/-- At most 32 bytes may be written to the bank of endpoint 0 (R240, R239). -/
theorem SafeInFront.transferWrites {ls : List Line} (h : ls.all writesByte = true) {n : Nat}
    (fits : n + ls.length ≤ 32) :
    SafeInFront p (.transfer busy freeReport n) ls (.transfer busy freeReport (n + ls.length)) := by
  induction ls generalizing n with
  | nil => exact .nil
  | cons l ls ih =>
    rw [List.all_cons, Bool.and_eq_true] at h
    obtain ⟨hl, hls⟩ := h
    rw [List.length_cons] at fits ⊢
    obtain ⟨inside, line⟩ := roomLine_writesByte (p := p) (k := .transfer busy freeReport n) hl
    have below : n < 32 := by omega
    have write : roomAfter p (.transfer busy freeReport n) l = some (.transfer busy freeReport (n + 1)) :=
      roomAfter_eq_some.mpr ⟨fun outside => absurd inside (Bool.eq_false_iff.mp outside),
        .transfer busy freeReport (n + 1),
        line.trans (by simp [Room.write, Room.when, Room.control, Room.transfer, below]),
        fun on => absurd on Bool.false_ne_true, rfl⟩
    rw [Nat.add_comm ls.length 1, ← Nat.add_assoc]
    exact .cons write (ih hls (by omega))

/-- What stands after a control transfer's lines: nothing is relied on with `I` = 0. -/
theorem SafeInFront.to_start_off {ls : List Line} (h : SafeInFront p k ls m) (off : m.ie = false) (empty : m.cur = 0) :
    SafeInFront p k ls (.start false) := h.weaken (.to_start_off off empty)

theorem SafeInFront.setAddress (lo : Byte) :
    SafeInFront p (.transfer busy freeReport 0) (setAddressCode lo) (.start false) :=
  .to_start_off (.cons rfl (.cons rfl (.cons rfl (.cons rfl .nil)))) rfl rfl

/-- SET_CONFIGURATION's lines for one endpoint configure it from its own entry. -/
theorem SafeInFront.configure (e : EpNum) (off : k.ie = false) (empty : k.cur = 0) :
    ∃ m, m.ie = false ∧ m.cur = 0 ∧ SafeInFront p k (configureCode p e) m := by
  cases hc : p.epConfig e with
  | none =>
    rw [configureCode_of_none hc]
    exact ⟨k, off, empty, .nil⟩
  | some c =>
    rw [configureCode_of_some hc]
    split
    case isFalse => exact ⟨k, off, empty, .nil⟩
    case isTrue =>
      refine ⟨{ k with sel := some e }, off, empty, fun rest safe => ?_⟩
      simpa [roomSafe, roomAfter, roomLine, inBank, Room.when, off, empty, hc, epConfig_ne_zero hc] using safe

theorem SafeInFront.configures (es : List EpNum) (off : k.ie = false) (empty : k.cur = 0) :
    SafeInFront p k (es.flatMap (configureCode p)) (.start false) := by
  induction es generalizing k with
  | nil => exact .of_le (.to_start_off off empty)
  | cons e es ih =>
    obtain ⟨m, off', empty', h⟩ := SafeInFront.configure (p := p) e off empty
    exact h.append (ih off' empty')

theorem SafeInFront.setConfiguration (cfg : Byte) :
    SafeInFront p (.transfer busy freeReport 0) (setConfigurationCode p cfg) (.start false) := by
  have code : setConfigurationCode p cfg =
      [.setUsbConfiguration cfg, .commit] ++ tableEps.flatMap (configureCode p) := by
    simp [setConfigurationCode, tableEps]
  rw [code]
  exact .append (.cons rfl (.cons rfl .nil)) (.configures tableEps rfl rfl)

theorem SafeInFront.clearFeature (feature : Half) (lo : Byte) :
    SafeInFront p (.transfer busy freeReport 0) (clearFeatureCode feature lo) (.start false) := by
  unfold clearFeatureCode
  split
  · exact .to_start_off (.cons rfl (.cons rfl (.cons rfl (.cons rfl (.cons rfl .nil))))) rfl rfl
  · exact .to_start_off (.cons rfl .nil) rfl rfl

theorem SafeInFront.getDescriptor (v x : Half) :
    SafeInFront p (.transfer busy freeReport 0) (getDescriptorCode p v x) (.start false) := by
  unfold getDescriptorCode
  split
  · exact .to_start_off (.cons rfl (.cons rfl .nil)) rfl rfl
  · exact .cons rfl .nil

theorem SafeInFront.getReport : SafeInFront p (.transfer busy freeReport 0) getReportCode (.start false) :=
  have waited : SafeInFront p (.transfer busy freeReport 0) [.setPhase .waitReport, .waitTxrdy]
      (.transfer true freeReport 0) := .cons rfl (.cons rfl .nil)
  have written : SafeInFront p (.transfer true freeReport 0) writeReportCode (.transfer true freeReport 8) :=
    .transferWrites rfl (by decide)
  .to_start_off ((waited.append written).append (.cons rfl .nil)) rfl rfl

theorem SafeInFront.handlerBody (r : Request) (got : List Byte) :
    SafeInFront p (.transfer busy freeReport 0) (handlerBody p r got) (.start false) := by
  cases r
  case setAddress => exact .setAddress _
  case setConfiguration => exact .setConfiguration _
  case clearFeature => exact .clearFeature _ _
  case setIdle => exact .to_start_off (.cons rfl (.cons rfl (.cons rfl .nil))) rfl rfl
  case getDescriptor => exact .getDescriptor _ _
  case getReport => exact .getReport
  case fatal => exact .to_start_off (.cons rfl (.cons rfl (.cons rfl (.cons rfl .nil)))) rfl rfl

theorem SafeInFront.handlerFrom (r : Request) (got : List Byte) :
    SafeInFront p (.transfer busy freeReport 0) (handlerFrom p r got) (.start false) := by
  unfold Machine.handlerFrom
  split
  · exact .cons rfl .nil
  · exact .handlerBody r got

theorem SafeInFront.dispatch (r : Request) :
    SafeInFront p (.transfer busy freeReport 0) (dispatchCode p r) (.start false) := by
  unfold dispatchCode
  split
  · exact .handlerFrom r []
  · exact .append (.handlerFrom r []) (.to_start_off (.cons rfl .nil) rfl rfl)

theorem SafeInFront.sendDescriptor (i : Nat) (got : List Byte) :
    SafeInFront p (.transfer busy freeReport 0) (sendDescriptorCode p i got) (.start false) := by
  unfold sendDescriptorCode
  split
  · exact .cons rfl .nil
  · exact .to_start_off (.cons rfl (.cons rfl (.cons rfl (.cons rfl (.cons rfl .nil))))) rfl rfl

/-- A bank of at most 32 bytes, and the test behind it (R240). -/
theorem SafeInFront.fillBank {n : Nat} (h : n ≤ 32) :
    SafeInFront p (.transfer busy freeReport 0) (fillBankCode n)
      { Room.transfer busy freeReport 0 with free0 := false } := by
  have bytes := SafeInFront.transferWrites (p := p) (busy := busy) (freeReport := freeReport)
    (ls := (List.range n).map .cwByte) (n := 0) (by simp [writesByte]) (by simpa using h)
  exact bytes.append (.cons rfl (.cons rfl (.cons rfl (.cons rfl (.cons rfl .nil)))))

/-- SETUP_INTAKE after the unread SETUP has flushed endpoint 0 (R231). -/
theorem SafeInFront.intake (acked : Bool) :
    SafeInFront p { Room.transfer busy freeReport 0 with acked := acked } (intakeCode ++ [.dispatch]) (.start false) :=
  fun _ safe => safe

/-! ## DEV_ISR and SEND (43_report.md) -/

theorem SafeInFront.autoWrite : SafeInFront p (.start false) (.setIdleCounter 0 :: autoWriteCode) (.start false) := by
  intro rest safe
  have safe' : roomSafe p { Room.start false with sel := some p.reportEp } rest = true :=
    roomSafe_mono (.to_start_off rfl rfl) safe
  simpa [autoWriteCode, roomSafe, roomAfter, roomLine, inBank, Room.when, Room.start] using safe'

theorem SafeInFront.devIsr (f : DevEvents) : SafeInFront p (.start false) (devIsrNext f) (.start false) := by
  refine .cons rfl (.append (m := .start false) ?reset ?tick)
  case reset =>
    split
    · exact .to_start_off (.cons rfl (.cons rfl (.cons rfl (.cons rfl .nil)))) rfl rfl
    · exact .nil
  case tick =>
    split
    · exact .cons rfl .nil
    · exact .nil

/-- The report's write sequence where WRAL of the selected report endpoint is 1 with `I` = 0. -/
theorem SafeInFront.commitReport (off : k.ie = false) (sel : k.sel = some p.reportEp) (free : k.freeReport = true)
    (empty : k.cur = 0) : SafeInFront p k commitReportCode { k with freeReport := false } := fun rest safe => by
  rwa [roomSafe_commitReport rest off sel free empty]

/-- SEND from its entry to its poll. -/
theorem SafeInFront.sendStart :
    SafeInFront p (.start true) [.saveI, .setI false, .selectReport, .sendReadFrame, .sendPoll] (.start true) :=
  fun _ safe => by simpa [roomSafe, roomAfter, roomLine, inBank, Room.when, Room.start] using safe

/-- The next poll of SEND's loop. -/
theorem SafeInFront.sendAgain :
    SafeInFront p (.start true) [.setI false, .selectReport, .sendPollAgain] (.start true) :=
  fun _ safe => by simpa [roomSafe, roomAfter, roomLine, inBank, Room.when, Room.start] using safe

end Sys2Proof.Machine
end

section
/-! PROOF. Room in the banks (R292, R297(b)): one line. A line that passes the checker keeps the port as `roomLine`
says, and what it expands to is safe (`lineStep_keepsRoom`), case by case of what the line relies on: nothing, the
byte's room, an acknowledged SETUP, or the check of WRAL. -/

namespace Sys2Proof.Machine

open Sys2Proof

variable {p : Params} {k j m : Room} {e : EpNum} {x : Endpoint} {s t : State}

/-! ## What one line does to the port -/

/-- Lines that relieve the port, where they touch it. -/
def relievesPort : Line → Bool
  | .select _ | .selectReport | .commit | .commitClr | .fifoWrite _ | .epConfigure _ | .ep0Init | .setPhase _
  | .restoreI => false
  | .setI v => !v
  | _ => true

theorem lineStep_relievesPort {l : Line} (h : relievesPort l = true) (s : State) : Relieves s (lineStep l s).1 := by
  cases l
  case select | selectReport | commit | commitClr | fifoWrite | epConfigure | ep0Init | setPhase | restoreI => cases h
  case setI v =>
    cases v
    case true => cases h
    case false => exact ⟨rfl, rfl, rfl, fun on => absurd on Bool.false_ne_true, fun _ => .refl _⟩
  case ackSetup =>
    exact .modEp (f := fun x => { x with rxstp := false, rxout := false })
      (.of_eq rfl rfl rfl (fun on => absurd on Bool.false_ne_true) rfl rfl)
  case stall =>
    exact .modEp (f := fun x => { x with stallReq := true }) (.of_eq rfl rfl rfl id rfl rfl)
  case armSetupIrq =>
    exact .modEp (f := fun x => { x with rxstpe := true }) (.of_eq rfl rfl rfl id rfl rfl)
  case epReset => exact .modEp (Endpoint.flush_eases _)
  case intakeByte =>
    rcases portFifoRead_cases s with ⟨_, heq⟩ | ⟨b, rest, _, heq⟩ <;> simp only [lineStep, heq]
    · exact ⟨rfl, rfl, rfl, id, fun _ => .refl _⟩
    · exact .modEp (.of_eq rfl rfl rfl id rfl rfl)
  case fatalHalt => exact ⟨rfl, rfl, rfl, fun on => absurd on Bool.false_ne_true, fun _ => .refl _⟩
  case sample raw => cases raw <;> exact ⟨rfl, rfl, rfl, id, fun _ => .refl _⟩
  all_goals exact ⟨rfl, rfl, rfl, id, fun _ => .refl _⟩

theorem RoomAt.select (h : RoomAt k s) (empty : k.cur = 0) (e : EpNum) :
    RoomAt { k with sel := some e } (portSelect e s) :=
  { h with
    sel := fun _ he => Option.some.inj he
    known := fun e' => (h.known e').weaken ((h.known e').cur_eq_nil (.inl empty)) id id id }

theorem RoomAt.ackSetup (h : RoomAt k s) : RoomAt { k with acked := k.busy } (portAckSetup s) :=
  have h' : RoomAt k (portAckSetup s) := h.relieved (lineStep_relievesPort (l := .ackSetup) rfl s)
  { h' with
    busy := fun hb => h'.busy (.inl (hb.elim id id))
    known := fun e => { h'.known e with acked := fun he _ => by rw [he, portAckSetup, State.ep_modEp, if_pos rfl] } }

theorem bankCount_pos (b : Banks) : 0 < bankCount b := by cases b <;> decide

/-- The banks in use fit the entry an endpoint is configured with: it is empty, or has that entry's shape. -/
theorem Endpoint.Shaped.empty_or_banks {c : EndpointConfig} (hx : x.Shaped p e) (he : e ≠ 0)
    (hc : p.epConfig e = some c) : x.committed = [] ∨ x.en = true ∧ x.banks = c.banks := by
  cases hen : x.en
  case false => exact .inl (hx.disabled hen).2
  case true =>
    obtain ⟨c', hc', banks, _⟩ := hx.table he hen
    obtain rfl := Option.some.inj (hc.symm.trans hc')
    exact .inr ⟨rfl, banks⟩

theorem Endpoint.Shaped.configure {c : EndpointConfig} (hx : x.Shaped p e) (he : e ≠ 0) (hc : p.epConfig e = some c) :
    (x.configure c).Shaped p e where
  banks := by
    have fits : x.committed.length ≤ bankCount c.banks := by
      rcases hx.empty_or_banks he hc with empty | ⟨_, banks⟩
      · rw [empty]; exact Nat.zero_le _
      · exact banks ▸ hx.banks
    exact fits
  disabled off := absurd off.symm Bool.false_ne_true
  control h0 := absurd h0 he
  table _ _ := ⟨c, hc, rfl, rfl⟩
  flushed h0 := absurd h0 he

theorem Endpoint.Known.configure {c : EndpointConfig} (hk : x.Known p k e) (hx : x.Shaped p e) (he : e ≠ 0)
    (hc : p.epConfig e = some c) : (x.configure c).Known p k e where
  cur := hk.cur
  acked h0 := absurd h0 he
  free0 h0 := absurd h0 he
  freeReport hr free := by
    have room : x.committed.length < bankCount c.banks := by
      rcases hx.empty_or_banks he hc with empty | ⟨on, banks⟩
      · rw [empty]; exact bankCount_pos _
      · exact banks ▸ hk.freeReport hr free on
    exact fun _ => room

theorem RoomAt.epConfigure {c : EndpointConfig} (h : RoomAt k s) (sel : k.sel = some e) (he : e ≠ 0)
    (hc : s.params.epConfig e = some c) : RoomAt k (portEpConfigure c s) := by
  rw [portEpConfigure, h.sel e sel]
  exact h.modEp id (fun _ => id) id ((h.shape e).configure he hc) ((h.known e).configure (h.shape e) he hc)
    fun e' _ => h.known e'

theorem Endpoint.initControl_shaped (x : Endpoint) : x.initControl.Shaped p 0 where
  banks := Nat.zero_le _
  disabled _ := ⟨rfl, rfl⟩
  control _ _ := ⟨rfl, rfl⟩
  table h0 := absurd rfl h0
  flushed _ _ := ⟨rfl, rfl⟩

theorem Endpoint.initControl_known (x : Endpoint) : x.initControl.Known p k 0 where
  cur := Nat.zero_le _
  acked _ _ := rfl
  free0 _ _ _ := Nat.zero_lt_one
  freeReport _ _ _ := Nat.zero_lt_one

theorem RoomAt.ep0Init (h : RoomAt k s) : RoomAt k (portEp0Init s) :=
  h.modEp id (fun _ => id) id (Endpoint.initControl_shaped _) (Endpoint.initControl_known _) fun e' _ => h.known e'

theorem RoomAt.setPhase (h : RoomAt k s) (ph : Phase) :
    RoomAt { k with busy := ph != .idle && ph != .halted, acked := k.acked && (ph != .idle && ph != .halted) }
      (setPhase ph s) :=
  { h with
    busy := fun hb => by
      have busy : (ph != .idle && ph != .halted) = true := hb.elim id fun ha => (Bool.and_eq_true_iff.mp ha).2
      rw [Bool.and_eq_true, bne_iff_ne, bne_iff_ne] at busy
      exact busy
    known := fun e => { h.known e with acked := fun he ha => (h.known e).acked he (Bool.and_eq_true_iff.mp ha).1 } }

theorem RoomAt.start (h : RoomAt k s) (empty : k.cur = 0) : RoomAt (.start true) s := h.weaken empty (.to_start empty)

theorem RoomAt.start_off (h : RoomAt k s) (off : k.ie = false) (empty : k.cur = 0) : RoomAt (.start false) s :=
  h.weaken empty (.to_start_off off empty)

/-- `I` may have any value where nothing is relied on. -/
theorem RoomAt.setI (h : RoomAt k s) (empty : k.cur = 0) (v : Bool) : RoomAt (.start true) { s with ie := v } :=
  { h.start empty with ie := fun _ => rfl }

theorem RoomAt.clearI (h : RoomAt k s) : RoomAt { k with ie := false } { s with ie := false } :=
  have h' : RoomAt k { s with ie := false } := h.relieved (lineStep_relievesPort (l := .setI false) rfl s)
  { h' with ie := id, known := fun e => { h'.known e with } }

/-- Endpoint 0 is seen to have room. -/
theorem RoomAt.see0 (h : RoomAt k s) (room : (s.ep 0).hasRoom) : RoomAt { k with free0 := true } s :=
  { h with known := fun e => { h.known e with free0 := fun he _ => he ▸ room } }

/-- The report endpoint is seen to have room. -/
theorem RoomAt.seeReport (h : RoomAt k s) (room : (s.ep s.params.reportEp).hasRoom) :
    RoomAt { k with freeReport := true } s :=
  { h with known := fun e => { h.known e with freeReport := fun he _ => he ▸ room } }

/-- Nothing is relied on of endpoint 0's banks any more. -/
theorem RoomAt.forget0 (h : RoomAt k s) : RoomAt { k with free0 := false } s :=
  { h with known := fun e => { h.known e with free0 := fun _ hf => absurd hf Bool.false_ne_true } }

theorem RoomAt.forgetReport (h : RoomAt k s) : RoomAt { k with freeReport := false } s :=
  { h with known := fun e => { h.known e with freeReport := fun _ hf => absurd hf Bool.false_ne_true } }

theorem RoomAt.portCommit (h : RoomAt k s) (control : k.control = true) :
    RoomAt { k with free0 := false, cur := 0 } (portCommit s) := by
  obtain ⟨sel, _, _⟩ := Room.control_iff.mp control
  have w := h.writable_control control
  rw [portCommit_hasRoom (by rw [h.sel 0 sel]; exact w.room), h.sel 0 sel]
  exact h.commit (f := Endpoint.commitBank) sel w (fun _ => .refl _) (fun hf => absurd hf Bool.false_ne_true)
    fun hf => ⟨(Params.valid_report h.valid).1.symm, hf⟩

theorem RoomAt.portCommitClr (h : RoomAt k s) (sel : k.sel = some s.params.reportEp) (free : k.freeReport = true) :
    RoomAt { k with freeReport := false, cur := 0 } (portCommitClr s) := by
  have w := h.writable_report free
  rw [portCommitClr_hasRoom (by rw [h.sel _ sel]; exact w.room), h.sel _ sel]
  exact h.commit sel w (fun x => x.commitBank.clearDone_eases)
    (fun hf => ⟨(Params.valid_report h.valid).1, hf⟩) fun hf => absurd hf Bool.false_ne_true

theorem RoomAt.portFifoWrite (b : Byte) (h : RoomAt k s) (write : k.write s.params = some j) :
    RoomAt j (portFifoWrite b s) := by
  obtain ⟨rfl, e, sel, w, size⟩ := h.write write
  have selected := h.sel e sel
  rw [portFifoWrite_hasRoom b (by rw [selected]; exact w.room) (by rw [selected]; exact size), selected]
  exact h.push b sel w

/-- What a line leaves: in the state `t` something is known at which the lines `ls`, put in front of the rest, are safe
wherever the rest is safe at `j`. -/
def KeptByLine (p : Params) (j : Room) (t : State) (ls : List Line) : Prop :=
  ∃ k, RoomAt k t ∧ k.Settled ∧ SafeInFront p k ls j

theorem RoomAt.keptByLine (h : RoomAt m t) (empty : m.ie = true → m.cur = 0) : KeptByLine p m.settle t [] :=
  ⟨m.settle, h.settle empty, m.settle_settled, .nil⟩

theorem Room.settled_of_off (off : k.ie = false) : k.Settled := fun on => absurd on (Bool.eq_false_iff.mp off)

theorem Room.settle_of_off (off : k.ie = false) : k.settle = k := (Room.settled_of_off off).settle_eq

theorem Room.Settled.off_of_sel (h : k.Settled) (sel : k.sel = some e) : k.ie = false :=
  Bool.eq_false_of_not_eq_true fun on => by rw [h on] at sel; cases sel

/-- What is known with endpoint 0 selected outside a write sequence. -/
theorem Room.Settled.eq_selected0 (h : k.Settled) (sel : k.sel = some 0) (empty : k.cur = 0) :
    ∃ busy acked free0 freeReport,
      k = { Room.transfer busy freeReport 0 with acked := acked, free0 := free0 } := by
  have off := h.off_of_sel sel
  obtain ⟨ie, sel', busy, acked, free0, freeReport, cur⟩ := k
  cases sel
  cases off
  cases empty
  exact ⟨busy, acked, free0, freeReport, rfl⟩

theorem Room.Settled.eq_transfer (h : k.Settled) (control : k.control = true) (empty : k.cur = 0) :
    ∃ busy freeReport, k = .transfer busy freeReport 0 := by
  obtain ⟨sel, acked, free⟩ := Room.control_iff.mp control
  obtain ⟨busy, _, _, freeReport, rfl⟩ := h.eq_selected0 sel empty
  cases acked
  cases free
  exact ⟨busy, freeReport, rfl⟩

/-! ## One line, by what it relies on -/

theorem relievesPort_of_keepsKnown {l : Line} (h : keepsKnown l = true) (init : l ≠ .ep0Init) :
    relievesPort l = true := by
  cases l <;> cases h
  case ep0Init => exact absurd rfl init
  all_goals rfl

theorem keepsKnown_keptByLine {l : Line} (hl : keepsKnown l = true) (h : RoomAt k s) (settled : k.Settled)
    (cur : inBank l = false → k.cur = 0) : KeptByLine p k (lineStep l s).1 (lineStep l s).2 := by
  refine ⟨k, ?_, settled, .keepsKnown settled fun l' hl' => ?_⟩
  · by_cases init : l = .ep0Init
    · subst init; exact h.ep0Init
    · exact h.relieved (lineStep_relievesPort (relievesPort_of_keepsKnown hl init) s)
  · have next := List.all_eq_true.mp (lineStep_keepsKnown hl s) l' hl'
    rw [Bool.and_eq_true, Bool.or_eq_true, Bool.not_eq_true'] at next
    exact ⟨next.1, fun outside => cur (next.2.resolve_left (Bool.eq_false_iff.mp outside))⟩

/-- The lines of DEV_ISR that a test or a snapshot expands (41_enumeration.md R201, R290). -/
def devTest : Line → Bool
  | .readDevint | .tickConfiguration | .tickRate | .tickDivide | .tickDivided | .tickCount | .tickCompare
  | .tickCompareRate _ => true
  | _ => false

theorem devTest_expands {l : Line} (hl : devTest l = true) (s : State) :
    (lineStep l s).1 = s ∧ roomLine p k l = some (.start k.ie) ∧ mainLine l = false ∧ inBank l = false ∧
      SafeInFront p (.start false) (lineStep l s).2 (.start false) := by
  cases l
  case readDevint => exact ⟨rfl, rfl, rfl, rfl, .devIsr _⟩
  case tickConfiguration | tickRate =>
    refine ⟨rfl, rfl, rfl, rfl, ?_⟩
    simp only [lineStep]
    split
    · exact .nil
    · exact .cons rfl .nil
  case tickDivided =>
    refine ⟨rfl, rfl, rfl, rfl, ?_⟩
    simp only [lineStep]
    split
    · exact .cons rfl .nil
    · exact .nil
  case tickDivide | tickCount => exact ⟨rfl, rfl, rfl, rfl, .cons rfl (.cons rfl .nil)⟩
  case tickCompare => exact ⟨rfl, rfl, rfl, rfl, .cons rfl .nil⟩
  case tickCompareRate =>
    refine ⟨rfl, rfl, rfl, rfl, ?_⟩
    simp only [lineStep]
    split
    · exact .autoWrite
    · exact .nil
  all_goals cases hl

/-- The lines of MAIN that lead on where nothing is relied on. -/
def mainRestart : Line → Bool
  | .boot | .syncCheck | .remapReport _ | .sendEntry | .sendConfiguration | .sendExpired => true
  | _ => false

theorem mainRestart_expands {l : Line} (hl : mainRestart l = true) (s : State) :
    relievesPort l = true ∧ roomLine p k l = some (.start true) ∧ inBank l = false ∧
      SafeInFront p (.start true) (lineStep l s).2 (.start true) := by
  cases l
  case boot => exact ⟨rfl, rfl, rfl, .cons rfl (.cons rfl (.cons rfl .nil))⟩
  case syncCheck =>
    refine ⟨rfl, rfl, rfl, ?_⟩
    simp only [lineStep]
    split <;> exact fun _ safe => safe
  case remapReport got =>
    refine ⟨rfl, rfl, rfl, ?_⟩
    simp only [lineStep, remapFrom]
    split <;> exact fun _ safe => safe
  case sendEntry =>
    refine ⟨rfl, rfl, rfl, ?_⟩
    simp only [lineStep]
    split
    · exact .cons rfl .nil
    · exact .sendStart
  case sendConfiguration =>
    refine ⟨rfl, rfl, rfl, ?_⟩
    simp only [lineStep]
    split <;> exact .cons rfl .nil
  case sendExpired =>
    refine ⟨rfl, rfl, rfl, ?_⟩
    simp only [lineStep]
    split
    · exact .cons rfl .nil
    · exact .sendAgain
  all_goals cases hl

/-- The lines of EP_ISR that lead to a handler, or go on with it (42_control.md R232, R237). -/
def dispatches : Line → Bool
  | .dispatch | .dispatchOn _ | .operand _ _ | .descLength _ _ => true
  | _ => false

theorem dispatches_expands {l : Line} (hl : dispatches l = true) (s : State) (busy freeReport : Bool) :
    (lineStep l s).1 = s ∧ (∀ k, roomLine s.params k l = (Room.start k.ie).when k.control) ∧ inBank l = false ∧
      SafeInFront s.params (.transfer busy freeReport 0) (lineStep l s).2 (.start false) := by
  cases l
  case dispatch => exact ⟨rfl, fun _ => rfl, rfl, .cons rfl .nil⟩
  case dispatchOn => exact ⟨rfl, fun _ => rfl, rfl, .dispatch _⟩
  case operand => exact ⟨rfl, fun _ => rfl, rfl, .handlerFrom _ _⟩
  case descLength => exact ⟨rfl, fun _ => rfl, rfl, .sendDescriptor _ _⟩
  all_goals cases hl

theorem dispatches_keptByLine {l : Line} (hl : dispatches l = true) (h : RoomAt k s) (settled : k.Settled)
    (cur : inBank l = false → k.cur = 0) (line : roomLine s.params k l = some m) :
    KeptByLine s.params m.settle (lineStep l s).1 (lineStep l s).2 := by
  obtain ⟨_, checks, outside, _⟩ := dispatches_expands hl s false false
  obtain ⟨control, rfl⟩ := Room.when_eq_some.mp ((checks k).symm.trans line)
  obtain ⟨busy, freeReport, rfl⟩ := settled.eq_transfer control (cur outside)
  obtain ⟨same, _, _, safe⟩ := dispatches_expands hl s busy freeReport
  rw [same]
  exact ⟨_, h, settled, safe⟩

/-- A line that writes a byte leads to FIFO_WRITE of it, or to nothing where the data has no such byte. -/
theorem writesByte_keptByLine {l : Line} (hl : writesByte l = true) (h : RoomAt k s) (settled : k.Settled)
    (line : roomLine s.params k l = some m) : KeptByLine s.params m.settle (lineStep l s).1 (lineStep l s).2 := by
  obtain ⟨inside, check⟩ := roomLine_writesByte (p := s.params) (k := k) hl
  rw [check] at line
  obtain ⟨rfl, e, sel, _, _⟩ := h.write line
  have off := settled.off_of_sel sel
  have settle : ({ k with cur := k.cur + 1 } : Room).settle = { k with cur := k.cur + 1 } := Room.settle_of_off off
  have again {l' : Line} (hl' : writesByte l' = true) :
      SafeInFront s.params k [l'] ({ k with cur := k.cur + 1 } : Room).settle := by
    obtain ⟨inside', check'⟩ := roomLine_writesByte (p := s.params) (k := k) hl'
    refine .cons (roomAfter_eq_some.mpr ⟨fun outside => absurd inside' (Bool.eq_false_iff.mp outside), _,
      check'.trans line, fun on => absurd on (Bool.eq_false_iff.mp off), rfl⟩) .nil
  cases l
  case fifoWrite b => exact (h.portFifoWrite b line).keptByLine fun on => absurd on (Bool.eq_false_iff.mp off)
  case readReport => exact ⟨k, h, settled, again rfl⟩
  case cwByte => exact ⟨k, h, settled, again rfl⟩
  case cwSource i =>
    simp only [lineStep, sourceCode]
    split
    · exact ⟨k, h, settled, again rfl⟩
    · have more : RoomAt { k with cur := k.cur + 1 } s :=
        { h with known := fun e => { h.known e with
            cur := (h.known e).cur.trans (by dsimp only; split <;> omega) } }
      exact more.keptByLine fun on => absurd on (Bool.eq_false_iff.mp off)
  all_goals cases hl

/-- The check of WRAL of the selected report endpoint (43_report.md R292, R293). -/
theorem RoomAt.seeWral (h : RoomAt k s) (sel : k.sel = some s.params.reportEp) (wral : (s.ep s.epSel).wral = true) :
    RoomAt { k with freeReport := true } s := by
  rw [h.sel _ sel] at wral
  obtain ⟨_, free, _⟩ := (Endpoint.wral_iff _).mp wral
  exact h.seeReport fun _ => free

theorem sendPoll_keptByLine (h : RoomAt k s) (off : k.ie = false) (sel : k.sel = some s.params.reportEp)
    (empty : k.cur = 0) : KeptByLine s.params (.start true) s (sendPollNext s) := by
  unfold sendPollNext
  split
  case isTrue wral =>
    refine ⟨_, h.seeWral sel wral, Room.settled_of_off off,
      .append (.commitReport off sel rfl empty) fun rest safe => ?_⟩
    simpa [roomSafe, roomAfter, roomLine, inBank, Room.when, off, empty, Room.start] using safe
  case isFalse =>
    exact ⟨_, h.start empty, fun _ => rfl, .cons rfl (.cons rfl .nil)⟩

/-- The endpoint as the wait for TXRDY[0] finds it (42_control.md R243). -/
theorem Endpoint.hasRoom_of_txrdy (h : x.txrdy = true) : x.hasRoom := by
  rw [Endpoint.txrdy, Bool.and_eq_true, decide_eq_true_eq] at h
  exact fun _ => h.2

/-- AUTO_WRITE's check (R292). -/
theorem autoStatus_keptByLine (h : RoomAt k s) (off : k.ie = false) (sel : k.sel = some s.params.reportEp)
    (empty : k.cur = 0) :
    KeptByLine s.params { k with freeReport := false } s (lineStep .autoStatus s).2 := by
  simp only [lineStep]
  split
  case isTrue wral => exact ⟨_, h.seeWral sel wral, Room.settled_of_off off, .commitReport off sel rfl empty⟩
  case isFalse => exact ⟨_, h.forgetReport, Room.settled_of_off off, .nil⟩

section
variable {busy acked free0 freeReport : Bool}

/-- EP_ISR's check of RXSTP (42_control.md R230): an unread SETUP has flushed endpoint 0. -/
theorem setupStatus_keptByLine
    (h : RoomAt { Room.transfer busy freeReport 0 with acked := acked, free0 := free0 } s) :
    KeptByLine s.params (.start false) s (lineStep .setupStatus s).2 := by
  simp only [lineStep, h.sel 0 rfl]
  split
  case isTrue unread =>
    have flushed : (s.ep 0).hasRoom := fun _ => by rw [((h.shape 0).flushed rfl unread).2]; exact bankCount_pos _
    exact ⟨_, h.see0 flushed, Room.settled_of_off rfl, .intake acked⟩
  case isFalse => exact ⟨_, h.start_off rfl rfl, Room.settled_of_off rfl, .nil⟩

/-- The lines between two banks, and what is known where they come back to (R240). -/
theorem SafeInFront.betweenBanks :
    SafeInFront p { Room.transfer busy freeReport 0 with free0 := false } [.setPhase .cwWait, .cwWait]
        { Room.transfer busy freeReport 0 with free0 := false } ∧
      SafeInFront p (.transfer busy freeReport 0) [.setPhase .cwFill, .cwFill]
        { Room.transfer busy freeReport 0 with free0 := false } :=
  have le : RoomLe { Room.transfer true freeReport 0 with free0 := false }
      { Room.transfer busy freeReport 0 with free0 := false } :=
    { RoomLe.refl _ with busy := fun _ => rfl }
  ⟨.weaken (.cons rfl (.cons rfl .nil)) le, .weaken (.cons rfl (.cons rfl .nil)) le⟩

/-- The wait for a free bank or an OUT (R240, R243). -/
theorem cwWait_keptByLine (h : RoomAt { Room.transfer busy freeReport 0 with free0 := free0 } s)
    (runs : held .cwWait s = false) :
    KeptByLine s.params { Room.transfer busy freeReport 0 with free0 := false } s (lineStep .cwWait s).2 := by
  simp only [lineStep, h.sel 0 rfl]
  split
  case isTrue => exact ⟨_, h.forget0, Room.settled_of_off rfl, .cons rfl .nil⟩
  case isFalse noOut =>
    have ready : (s.ep 0).txrdy = true := by simpa [held, noOut] using runs
    exact ⟨_, h.see0 (Endpoint.hasRoom_of_txrdy ready), Room.settled_of_off rfl, SafeInFront.betweenBanks.2⟩

theorem cwLoop_keptByLine (n : Byte) (h : RoomAt { Room.transfer busy freeReport 0 with free0 := free0 } s) :
    KeptByLine s.params { Room.transfer busy freeReport 0 with free0 := false } s (lineStep (.cwLoop n) s).2 := by
  refine ⟨_, h.forget0, Room.settled_of_off rfl, ?_⟩
  simp only [lineStep]
  split
  case isTrue => exact .cons rfl .nil
  case isFalse => exact SafeInFront.betweenBanks.1

end

/-- A line that is safe at what is known, run in that state: what is known after it, with the lines it puts in front,
makes safe whatever is safe after the line. A test of AUTO_TICK leads to AUTO_WRITE, which is safe with `I` = 0 only:
MAIN has no such line. -/
theorem lineStep_keepsRoom {l : Line} (h : RoomAt k s) (settled : k.Settled) (own : mainLine l = true ∨ k.ie = false)
    (runs : held l s = false) (safe : roomAfter s.params k l = some j) :
    KeptByLine s.params j (lineStep l s).1 (lineStep l s).2 := by
  obtain ⟨cur, m, line, empty, rfl⟩ := roomAfter_eq_some.mp safe
  by_cases hp : keepsKnown l = true
  · obtain rfl := Option.some.inj ((roomLine_keepsKnown hp).symm.trans line)
    rw [settled.settle_eq]
    exact keepsKnown_keptByLine hp h settled cur
  by_cases ht : devTest l = true
  · obtain ⟨same, check, notMain, outside, expands⟩ := devTest_expands (p := s.params) (k := k) ht s
    have off := own.resolve_left (Bool.eq_false_iff.mp notMain)
    obtain rfl := Option.some.inj (check.symm.trans line)
    rw [same, off]
    exact ⟨_, h.start_off off (cur outside), Room.settled_of_off rfl, expands⟩
  by_cases hr : mainRestart l = true
  · obtain ⟨eases, check, outside, expands⟩ := mainRestart_expands (p := s.params) (k := k) hr s
    obtain rfl := Option.some.inj (check.symm.trans line)
    exact ⟨_, (h.start (cur outside)).relieved (lineStep_relievesPort eases s), fun _ => rfl, expands⟩
  by_cases htr : dispatches l = true
  · exact dispatches_keptByLine htr h settled cur line
  by_cases hw : writesByte l = true
  · exact writesByte_keptByLine hw h settled line
  cases l
  case select e => cases line; exact (h.select (cur rfl) e).keptByLine empty
  case selectReport => cases line; exact (h.select (cur rfl) _).keptByLine empty
  case ackSetup => cases line; exact h.ackSetup.keptByLine empty
  case setPhase ph => cases line; exact (h.setPhase ph).keptByLine empty
  case restoreI => cases line; exact (h.setI (cur rfl) _).keptByLine empty
  case setI v =>
    cases v <;> cases line
    · exact h.clearI.keptByLine empty
    · exact (h.setI (cur rfl) true).keptByLine empty
  case commit =>
    obtain ⟨control, rfl⟩ := Room.when_eq_some.mp line
    exact (h.portCommit control).keptByLine empty
  case commitClr =>
    obtain ⟨check, rfl⟩ := Room.when_eq_some.mp line
    rw [Bool.and_eq_true, beq_iff_eq] at check
    exact (h.portCommitClr check.1 check.2).keptByLine empty
  case epConfigure c =>
    simp only [roomLine, Room.when_eq_some, Option.any_eq_true, Bool.and_eq_true, bne_iff_ne, beq_iff_eq] at line
    obtain ⟨⟨e, sel, he, hc⟩, rfl⟩ := line
    exact (h.epConfigure sel he hc).keptByLine empty
  case waitTxrdy =>
    cases line
    exact (h.see0 (Endpoint.hasRoom_of_txrdy (by simpa [held] using runs))).keptByLine empty
  case autoStatus =>
    simp only [roomLine, Room.when_eq_some, beq_iff_eq] at line
    obtain ⟨sel, rfl⟩ := line
    have off := settled.off_of_sel sel
    rw [Room.settle_of_off (by exact off)]
    exact autoStatus_keptByLine h off sel (cur rfl)
  case setupStatus =>
    simp only [roomLine, Room.when_eq_some, beq_iff_eq] at line
    obtain ⟨sel, rfl⟩ := line
    obtain ⟨busy, acked, free0, freeReport, rfl⟩ := settled.eq_selected0 sel (cur rfl)
    exact setupStatus_keptByLine h
  case cwWait =>
    simp only [roomLine, Room.when_eq_some, Bool.and_eq_true, beq_iff_eq] at line
    obtain ⟨⟨sel, hacked⟩, rfl⟩ := line
    obtain ⟨busy, acked, free0, freeReport, rfl⟩ := settled.eq_selected0 sel (cur rfl)
    cases hacked
    exact cwWait_keptByLine h runs
  case cwLoop n =>
    simp only [roomLine, Room.when_eq_some, Bool.and_eq_true, beq_iff_eq] at line
    obtain ⟨⟨sel, hacked⟩, rfl⟩ := line
    obtain ⟨busy, acked, free0, freeReport, rfl⟩ := settled.eq_selected0 sel (cur rfl)
    cases hacked
    exact cwLoop_keptByLine n h
  case cwFill =>
    obtain ⟨control, rfl⟩ := Room.when_eq_some.mp line
    obtain ⟨busy, freeReport, rfl⟩ := settled.eq_transfer control (cur rfl)
    exact ⟨_, h, settled, .fillBank (Nat.min_le_right _ _)⟩
  case sendPoll | sendPollAgain =>
    simp only [roomLine, Room.when_eq_some, Bool.and_eq_true, beq_iff_eq, Bool.not_eq_true'] at line
    obtain ⟨⟨sel, off⟩, rfl⟩ := line
    exact sendPoll_keptByLine h off sel (cur rfl)
  all_goals contradiction

end Sys2Proof.Machine
end

section
/-! PROOF. Room in the banks (R292, R297(b)): one step. The CPU's own step runs a safe line, enters a handler from
where nothing is relied on, or returns to such a place; a host action relieves the port, and a SETUP comes outside
transfers only. So every step keeps `roomInv` where MAIN's position holds MAIN's own lines
(`step_roomInv_of_mainLines`). -/

namespace Sys2Proof.Machine

open Sys2Proof

variable {p : Params} {k j m : Room} {e : EpNum} {x : Endpoint} {s t : State}

/-! ## Faults and `I` -/

/-- A safe line records no PORT_MISUSE. -/
theorem lineStep_fault {l : Line} (h : RoomAt k s) (safe : roomAfter s.params k l = some j) :
    (lineStep l s).1.fault = s.fault ∨ ∃ req, (lineStep l s).1.fault = s.fault ++ [.unhandledRequest req] := by
  obtain ⟨-, m, line, -⟩ := roomAfter_eq_some.mp safe
  cases l
  case fatalHalt req => exact .inr ⟨req, rfl⟩
  all_goals refine .inl ?_
  case commit =>
    obtain ⟨control, _⟩ := Room.when_eq_some.mp line
    obtain ⟨sel, _, _⟩ := Room.control_iff.mp control
    rw [lineStep, portCommit_hasRoom (by rw [h.sel 0 sel]; exact (h.writable_control control).room)]
    rfl
  case commitClr =>
    obtain ⟨check, _⟩ := Room.when_eq_some.mp line
    rw [Bool.and_eq_true, beq_iff_eq] at check
    rw [lineStep, portCommitClr_hasRoom (by rw [h.sel _ check.1]; exact (h.writable_report check.2).room)]
    rfl
  case fifoWrite b =>
    obtain ⟨_, e, sel, w, size⟩ := h.write line
    have selected := h.sel e sel
    rw [lineStep, portFifoWrite_hasRoom b (by rw [selected]; exact w.room) (by rw [selected]; exact size)]
    rfl
  case intakeByte =>
    rcases portFifoRead_cases s with ⟨_, heq⟩ | ⟨_, _, _, heq⟩ <;> exact congrArg (fun r => r.2.fault) heq
  case sample raw => cases raw <;> rfl
  all_goals rfl

theorem portCommit_ie_le (on : (portCommit s).ie = true) : s.ie = true := by
  rcases portCommit_cases s with ⟨_, heq⟩ | ⟨_, _, heq⟩ | ⟨_, _, heq⟩ <;> rw [heq] at on
  · exact on
  · cases on
  · exact on

/-- No line of a handler raises `I` (60_exceptions.md R372). -/
theorem handlerLine_ie_le {l : Line} (hl : devLine l = true ∨ epLine l = true) (on : (lineStep l s).1.ie = true) :
    s.ie = true := by
  by_cases hr : relievesPort l = true
  · exact (lineStep_relievesPort hr s).ie on
  cases l
  case select | selectReport | epConfigure | ep0Init | setPhase => exact on
  case commit => exact portCommit_ie_le on
  case commitClr => exact portCommitClr_ie_le on
  case fifoWrite => exact portFifoWrite_ie_le on
  case restoreI => rcases hl with hl | hl <;> cases hl
  case setI v =>
    cases v
    · contradiction
    · rcases hl with hl | hl <;> cases hl
  all_goals contradiction

/-! ## The invariant -/

theorem roomInv_of (h : RoomAt k s) (settled : k.Settled) (safe : roomSafe s.params k s.position = true)
    (behind : s.ctx ≠ .main → s.ie = false ∧ roomSafe s.params (.start true) s.mainPc = true) : s.roomInv :=
  ⟨h.valid, portShape_iff.mpr h.shape, fun _ => ⟨⟨k, h.roomHolds settled, safe⟩, behind⟩⟩

theorem State.roomInv.valid (h : s.roomInv) : s.params.valid = true := h.1

theorem State.roomInv.shape (h : s.roomInv) : PortShape s := h.2.1

/-- What is known of the port at the position of a running machine. -/
theorem State.roomInv.running (h : s.roomInv) (running : s.halted = false) :
    (∃ k, RoomAt k s ∧ k.Settled ∧ roomSafe s.params k s.position = true) ∧
      (s.ctx ≠ .main → s.ie = false ∧ roomSafe s.params (.start true) s.mainPc = true) := by
  obtain ⟨valid, shape, safe⟩ := h
  obtain ⟨⟨k, holds, position⟩, behind⟩ := safe running
  exact ⟨⟨k, .of_roomHolds valid shape holds, holds.settled, position⟩, behind⟩

/-- The invariant speaks of nothing but the port, `I` and the positions. -/
theorem State.roomInv.relieved (h : s.roomInv) (r : Relieves s t) (halted : t.halted = s.halted) (ctx : t.ctx = s.ctx)
    (isrPc : t.isrPc = s.isrPc) (mainPc : t.mainPc = s.mainPc) : t.roomInv := by
  refine ⟨r.params ▸ h.valid, h.shape.relieved r, fun running => ?_⟩
  obtain ⟨⟨k, known, settled, safe⟩, behind⟩ := h.running (halted.symm.trans running)
  have position : t.position = s.position := by rw [State.position, State.position, ctx, isrPc, mainPc]
  refine ⟨⟨k, (known.relieved r).roomHolds settled, by rw [position, r.params]; exact safe⟩, fun handler => ?_⟩
  obtain ⟨off, mainSafe⟩ := behind (ctx ▸ handler)
  rw [r.params, mainPc]
  exact ⟨Bool.eq_false_of_not_eq_true fun on => Bool.eq_false_iff.mp off (r.ie on), mainSafe⟩

/-- Outside a write sequence every CUR is empty (R292). -/
theorem State.roomInv.cur_eq_nil (h : s.roomInv) (running : s.halted = false)
    (outside : ∀ l ∈ s.position.head?, inBank l = false) (e : EpNum) : (s.ep e).cur = [] := by
  obtain ⟨⟨k, known, _, safe⟩, _⟩ := h.running running
  exact (known.known e).cur_eq_nil (.inl (roomSafe_cur safe outside))

/-! ## The CPU's own step -/

/-- MAIN's next POLL_CYCLE is safe where its position is at its end (70_reset_and_hazards.md R412). -/
theorem mainCode_roomSafe (settled : k.Settled) (safe : roomSafe p k s.mainPc = true) :
    roomSafe p k (mainCode s) = true := by
  unfold mainCode
  split
  case h_1 hpc =>
    rw [hpc] at safe
    have empty : k.cur = 0 := by simpa [roomSafe] using safe
    have passes {l : Line} (hl : keepsKnown l = true) : roomAfter p k l = some k :=
      roomAfter_keepsKnown hl settled fun _ => empty
    have checked : roomAfter p k .syncCheck = some (.start true) :=
      roomAfter_eq_some.mpr ⟨fun _ => empty, _, rfl, fun _ => rfl, rfl⟩
    exact SafeInFront.cons (passes rfl) (.cons (passes rfl) (.cons checked .nil)) [] rfl
  case h_2 => exact safe

theorem mainStep_roomInv (hm : s.ctx = .main) (running : s.halted = false) (own : ∀ l ∈ s.mainPc, mainLine l = true)
    (h : s.roomInv) : (mainStep s).roomInv := by
  rcases mainStep_cases s with heq | ⟨l, ls, hcode, runs, heq⟩ <;> rw [heq]
  · exact h
  · obtain ⟨⟨k, known, settled, safe⟩, _⟩ := h.running running
    rw [State.position, if_pos hm] at safe
    have code := mainCode_roomSafe settled safe
    have ownLine := mainCode_own own l (by rw [hcode]; exact List.mem_cons_self)
    rw [hcode] at code
    obtain ⟨j, line, rest⟩ := roomSafe_cons.mp code
    obtain ⟨k', known', settled', front⟩ := lineStep_keepsRoom known settled (.inl ownLine) runs line
    have frame := lineStep_frame l s
    have hctx : (lineStep l s).1.ctx = .main := frame.ctx.trans hm
    refine roomInv_of (known'.relieved ⟨rfl, rfl, rfl, id, fun _ => .refl _⟩) settled' ?_
      fun handler => absurd hctx handler
    rw [State.position, if_pos hctx]
    exact frame.params ▸ front ls rest

/-- With `I` = 0 a handler relies on as much with `ie` off. -/
theorem RoomAt.off (h : RoomAt k s) (off : s.ie = false) : RoomAt { k with ie := false } s :=
  { h with
    ie := fun on => absurd on (Bool.eq_false_iff.mp off)
    known := fun e => { h.known e with } }

theorem returnFromInterrupt_roomInv (h : RoomAt k s) (empty : k.cur = 0)
    (behind : roomSafe s.params (.start true) s.mainPc = true) : (returnFromInterrupt s).roomInv :=
  roomInv_of (k := .start true) { h.start empty with ie := fun _ => rfl } (fun _ => rfl) behind
    fun handler => absurd rfl handler

theorem isrStep_roomInv (hm : s.ctx ≠ .main) (running : s.halted = false) (nested : s.noNesting) (h : s.roomInv) :
    (isrStep s).roomInv := by
  obtain ⟨off, handlers⟩ := nested hm
  obtain ⟨⟨k, known, _, safe⟩, behind⟩ := h.running running
  obtain ⟨_, mainSafe⟩ := behind hm
  rw [State.position, if_neg hm] at safe
  rcases isrStep_cases s with ⟨hpc, heq⟩ | heq | ⟨l, ls, hpc, runs, heq⟩ <;> rw [heq]
  · rw [hpc] at safe
    exact returnFromInterrupt_roomInv known (by simpa [roomSafe] using safe) mainSafe
  · exact h
  · have le : RoomLe { k with ie := false } k := { RoomLe.refl k with ie := fun on => absurd on Bool.false_ne_true }
    rw [hpc] at safe
    obtain ⟨j, line, rest⟩ := roomSafe_cons.mp (roomSafe_mono le safe)
    obtain ⟨k', known', settled', front⟩ :=
      lineStep_keepsRoom (known.off off) (Room.settled_of_off rfl) (.inr rfl) runs line
    have frame := lineStep_frame l s
    have hctx : (lineStep l s).1.ctx ≠ .main := frame.ctx ▸ hm
    refine roomInv_of (known'.relieved ⟨rfl, rfl, rfl, id, fun _ => .refl _⟩) settled' ?_ fun _ => ⟨?_, ?_⟩
    · rw [State.position, if_neg hctx]
      exact frame.params ▸ front ls rest
    · exact Bool.eq_false_of_not_eq_true fun on =>
        Bool.eq_false_iff.mp off (handlerLine_ie_le (handlers l (hpc ▸ List.mem_cons_self)) on)
    · rw [frame.params, frame.mainPc]
      exact mainSafe

theorem interruptEntry_roomInv {c : Ctx} (hc : c ≠ .main) (hm : s.ctx = .main) (running : s.halted = false)
    (on : s.ie = true) (h : s.roomInv) : (interruptEntry c s).roomInv := by
  obtain ⟨⟨k, known, settled, safe⟩, _⟩ := h.running running
  obtain rfl := settled (known.ie on)
  rw [State.position, if_pos hm] at safe
  refine roomInv_of (k := .start false) { known with ie := id, known := fun e => { known.known e with } }
    (Room.settled_of_off rfl) ?_ fun _ => ⟨rfl, safe⟩
  cases c
  case main => exact absurd rfl hc
  case devIsr => rfl
  case epIsr => rfl

theorem State.roomInv.drawn (h : s.roomInv) (n : Nat) : { s with draws := n }.roomInv :=
  h.relieved ⟨rfl, rfl, rfl, id, fun _ => .refl _⟩ rfl rfl rfl rfl

theorem State.roomInv.scripted (h : s.roomInv) (es : List ScriptEntry) : { s with script := es }.roomInv :=
  h.relieved ⟨rfl, rfl, rfl, id, fun _ => .refl _⟩ rfl rfl rfl rfl

theorem cpuStep_roomInv (own : ∀ l ∈ s.mainPc, mainLine l = true) (nested : s.noNesting) (h : s.roomInv) :
    (cpuStep s).roomInv := by
  rcases cpuStep_cases s with ⟨_, heq⟩ | ⟨running, hm, heq⟩ | ⟨running, hm, enter, heq⟩ | ⟨running, hm, _, heq⟩ |
    ⟨running, hm, _, heq⟩ <;> rw [heq]
  · exact h
  · exact isrStep_roomInv hm running nested h
  · exact interruptEntry_roomInv (s.enters_ne_main _) hm running (State.ie_of_mayEnter enter) (h.drawn _)
  · exact mainStep_roomInv hm running own (h.drawn _)
  · exact mainStep_roomInv hm running own h

/-- What a run of the block adds to the fault trace: nothing, or an unhandled request (60_exceptions.md R370). -/
def NoMisuse (s t : State) : Prop := t.fault = s.fault ∨ ∃ req, t.fault = s.fault ++ [.unhandledRequest req]

theorem mainStep_noMisuse (hm : s.ctx = .main) (running : s.halted = false) (h : s.roomInv) :
    NoMisuse s (mainStep s) := by
  rcases mainStep_cases s with heq | ⟨l, ls, hcode, _, heq⟩ <;> rw [heq]
  · exact .inl rfl
  · obtain ⟨⟨k, known, settled, safe⟩, _⟩ := h.running running
    rw [State.position, if_pos hm] at safe
    have code := mainCode_roomSafe settled safe
    rw [hcode] at code
    obtain ⟨_, line, _⟩ := roomSafe_cons.mp code
    exact lineStep_fault known line

theorem isrStep_noMisuse (hm : s.ctx ≠ .main) (running : s.halted = false) (h : s.roomInv) :
    NoMisuse s (isrStep s) := by
  rcases isrStep_cases s with ⟨_, heq⟩ | heq | ⟨l, ls, hpc, _, heq⟩ <;> rw [heq]
  · exact .inl rfl
  · exact .inl rfl
  · obtain ⟨⟨k, known, _, safe⟩, _⟩ := h.running running
    rw [State.position, if_neg hm, hpc] at safe
    obtain ⟨_, line, _⟩ := roomSafe_cons.mp safe
    exact lineStep_fault known line

theorem cpuStep_noMisuse (h : s.roomInv) : NoMisuse s (cpuStep s) := by
  rcases cpuStep_cases s with ⟨_, heq⟩ | ⟨running, hm, heq⟩ | ⟨_, _, _, heq⟩ | ⟨running, hm, _, heq⟩ |
    ⟨running, hm, _, heq⟩ <;> rw [heq]
  · exact .inl rfl
  · exact isrStep_noMisuse hm running h
  · exact .inl rfl
  · exact mainStep_noMisuse (s := { s with draws := s.draws + 1 }) hm running (h.drawn _)
  · exact mainStep_noMisuse hm running h

/-! ## The host's actions (40_port.md R170 to R176) -/

theorem Relieves.seen (r : Relieves s t) (e : EpNum) (o : HostOutcome) : Relieves s (hostSees e o t) :=
  ⟨r.params, r.epSel, r.phase, r.ie, r.ep⟩

theorem Relieves.refl (s : State) : Relieves s s := ⟨rfl, rfl, rfl, id, fun _ => .refl _⟩

theorem Relieves.ifAttached (r : Relieves s t) : Relieves s (if s.attached then t else s) := by
  split
  · exact r
  · exact .refl s

theorem Endpoint.busReset_eases (x : Endpoint) : x.Eases x.busReset where
  en on := absurd on Bool.false_ne_true
  banks := rfl
  size := rfl
  rxstp on := absurd on Bool.false_ne_true
  cur := Nat.zero_le _
  committed := Nat.zero_le _
  disabled _ := .inr ⟨rfl, rfl⟩

theorem hostBusReset_relieves (s : State) : Relieves s (hostBusReset s) :=
  ⟨rfl, rfl, rfl, id, fun e => by rw [hostBusReset_ep]; exact Endpoint.busReset_eases _⟩

theorem hostIn_relieves (a : DevAddr) (e : EpNum) (s : State) : Relieves s (hostIn a e s) := by
  unfold hostIn
  split
  · exact (Relieves.refl s).seen _ _
  split
  · exact (Relieves.refl s).seen _ _
  split
  · exact Relieves.seen (.modEp (.of_eq rfl rfl rfl id rfl rfl)) _ _
  split
  case h_1 pkt rest holds =>
    refine Relieves.seen (.modEp { Endpoint.Eases.refl (s.ep e) with committed := ?_, disabled := .inl }) _ _
    rw [holds]
    exact Nat.le_succ _
  case h_2 => exact Relieves.seen (.modEp (.of_eq rfl rfl rfl id rfl rfl)) _ _

theorem hostOut_relieves (a : DevAddr) (e : EpNum) (d : List Byte) (s : State) : Relieves s (hostOut a e d s) := by
  unfold hostOut
  split
  · exact (Relieves.refl s).seen _ _
  split
  · exact (Relieves.refl s).seen _ _
  split
  · exact Relieves.seen (.modEp (.of_eq rfl rfl rfl id rfl rfl)) _ _
  split
  · exact Relieves.seen (.modEp (.of_eq rfl rfl rfl id rfl rfl)) _ _
  · exact (Relieves.refl s).seen _ _

/-- A host action relieves the port, but for a SETUP, which comes outside transfers only (R177). -/
theorem exec_hostAction_relieves {i : Instr} (hi : isHostAction i = true) (h : exec i s = .next t) :
    Relieves s t ∨ ∃ p, s.setupAllowed = true ∧ t = hostSees 0 .ack (s.modEp 0 (Endpoint.takeSetup p)) := by
  cases i with
  | hBusReset =>
    obtain rfl := Host.Outcome.next.inj h
    exact .inl (hostBusReset_relieves s).ifAttached
  | hSof =>
    obtain rfl := Host.Outcome.next.inj h
    exact .inl (Relieves.ifAttached ⟨rfl, rfl, rfl, id, fun _ => .refl _⟩)
  | hDeveventOther =>
    obtain rfl := Host.Outcome.next.inj h
    exact .inl (Relieves.ifAttached ⟨rfl, rfl, rfl, id, fun _ => .refl _⟩)
  | hIn a e =>
    obtain rfl := Host.Outcome.next.inj h
    exact .inl (hostIn_relieves a e s).ifAttached
  | hSetup a p =>
    simp only [exec, execHSetup, hostSetup] at h
    split at h
    · cases h; exact .inl (.refl s)
    split at h
    · cases h
    case isFalse guard =>
      have allowed : s.setupAllowed = true := by
        simp only [Bool.or_eq_true, Bool.not_eq_true', not_or, Bool.not_eq_false] at guard
        exact guard.1
      obtain rfl := Host.Outcome.next.inj h
      split
      · exact .inl ((Relieves.refl s).seen _ _)
      split
      · exact .inl ((Relieves.refl s).seen _ _)
      · exact .inr ⟨p, allowed, rfl⟩
  | hOut a e d =>
    simp only [exec, execHOut] at h
    split at h
    · cases h; exact .inl (.refl s)
    split at h
    · cases h
    · cases h; exact .inl (hostOut_relieves a e d s)
  | _ => cases hi

theorem Endpoint.Shaped.takeSetup (bs : List Byte) (hx : x.Shaped p 0) : (x.takeSetup bs).Shaped p 0 :=
  { hx with banks := Nat.zero_le _, disabled := fun _ => ⟨rfl, rfl⟩, flushed := fun _ _ => ⟨rfl, rfl⟩ }

theorem Endpoint.takeSetup_known (bs : List Byte) (x : Endpoint) (unacked : k.acked = false) :
    (x.takeSetup bs).Known p k 0 where
  cur := Nat.zero_le _
  acked _ ha := absurd ha (Bool.eq_false_iff.mp unacked)
  free0 _ _ _ := bankCount_pos _
  freeReport _ _ _ := bankCount_pos _

theorem takeSetup_roomInv (bs : List Byte) (allowed : s.setupAllowed = true) (h : s.roomInv) :
    (hostSees 0 .ack (s.modEp 0 (Endpoint.takeSetup bs))).roomInv := by
  refine ⟨h.valid, portShape_iff.mpr fun e => ?shape, fun running => ?running⟩
  case shape =>
    have shape := portShape_iff.mp h.shape
    have taken : (s.modEp 0 (Endpoint.takeSetup bs)).ep e |>.Shaped s.params e := by
      rw [State.ep_modEp]
      split
      case isTrue he => subst he; exact (shape 0).takeSetup bs
      case isFalse => exact shape e
    exact taken
  case running =>
    obtain ⟨⟨k, known, settled, safe⟩, behind⟩ := h.running running
    have unacked : k.acked = false := Bool.eq_false_of_not_eq_true fun acked => by
      obtain ⟨notIdle, notHalted⟩ := known.busy (.inr acked)
      exact ((State.setupAllowed_iff s).mp allowed).1.elim notIdle notHalted
    have taken : RoomAt k (s.modEp 0 (Endpoint.takeSetup bs)) :=
      known.modEp id (fun _ => id) id ((known.shape 0).takeSetup bs) (Endpoint.takeSetup_known bs _ unacked)
        fun e _ => known.known e
    exact ⟨⟨k, (taken.relieved ((Relieves.refl _).seen 0 .ack)).roomHolds settled, safe⟩, behind⟩

/-- A host action changes neither a position nor the halt nor the fault trace. -/
theorem OnlyPortChanges.unchanged (h : OnlyPortChanges s t) :
    t.halted = s.halted ∧ t.ctx = s.ctx ∧ t.isrPc = s.isrPc ∧ t.mainPc = s.mainPc ∧ t.fault = s.fault := by
  rw [h]
  exact ⟨rfl, rfl, rfl, rfl, rfl⟩

theorem exec_hostAction_roomInv {i : Instr} (hi : isHostAction i = true) (h : s.roomInv) (hexec : exec i s = .next t) :
    t.roomInv := by
  rcases exec_hostAction_relieves hi hexec with r | ⟨bs, allowed, rfl⟩
  · obtain ⟨halted, ctx, isrPc, mainPc, _⟩ := (exec_hostAction_onlyPort hi hexec).unchanged
    exact h.relieved r halted ctx isrPc mainPc
  · exact takeSetup_roomInv bs allowed h

/-- Where MAIN's position holds MAIN's own lines, as `phaseInv` has it in every run (PhaseKept), all that RoomKept
says of a step holds (R292, R297(b)). -/
theorem step_roomInv_of_mainLines (hs : s.hostScript = true) (nested : s.noNesting)
    (own : ∀ l ∈ s.mainPc, mainLine l = true) (h : s.roomInv) (hstep : step s = .next t) :
    t.roomInv ∧ NoMisuse s t ∧ (∀ e, (t.ep e).committed.length ≤ bankCount (t.ep e).banks) ∧
      (t.halted = false → (∀ l ∈ t.position.head?, inBank l = false) → ∀ e, (t.ep e).cur = []) := by
  have kept : t.roomInv ∧ NoMisuse s t := by
    obtain ⟨entries, _, rfl | ⟨i, hi, hexec⟩⟩ := hostScript_step_cases hs hstep
    · exact ⟨cpuStep_roomInv (s := { s with script := entries }) own nested (h.scripted entries),
        cpuStep_noMisuse (h.scripted entries)⟩
    · obtain ⟨_, _, _, _, faults⟩ := (exec_hostAction_onlyPort hi hexec).unchanged
      exact ⟨exec_hostAction_roomInv hi (h.scripted entries) hexec, .inl faults⟩
  obtain ⟨room, faults⟩ := kept
  exact ⟨room, faults, room.shape.banks, room.cur_eq_nil⟩

end Sys2Proof.Machine
end

section
/-! PROOF. Room in the banks (R292, R297(b)): the invariant holds at power-on, and why RoomKept fails. The obligation
does not ask that MAIN's position holds MAIN's own lines, and a line of DEV_ISR there leads out of the invariant. -/

namespace Sys2Proof.Machine

open Sys2Proof

/-! ## Power-on (10_state.md R53) -/

theorem State.powerOn_ep (p : Params) (u : Unspecified) (e : EpNum) :
    (State.powerOn p u).ep e = Endpoint.powerOn u.shapes[e] := by
  simp only [State.powerOn, State.ep, Fin.getElem_fin, Vector.getElem_map]

/-- At power-on every endpoint is disabled and empty. -/
theorem State.powerOn_roomAt {p : Params} (valid : p.valid = true) (u : Unspecified) :
    RoomAt (.start false) (State.powerOn p u) where
  valid := valid
  ie on := on
  sel _ h := by cases h
  busy h := by rcases h with h | h <;> cases h
  shape e := by
    rw [State.powerOn_ep]
    exact ⟨Nat.zero_le _, fun _ => ⟨rfl, rfl⟩, fun _ on => absurd on Bool.false_ne_true,
      fun _ on => absurd on Bool.false_ne_true, fun _ _ => ⟨rfl, rfl⟩⟩
  known e := by
    rw [State.powerOn_ep]
    exact ⟨Nat.zero_le _, fun _ _ => rfl, fun _ h => absurd h Bool.false_ne_true,
      fun _ h => absurd h Bool.false_ne_true⟩

/-- The invariant holds where every run begins. -/
theorem State.powerOn_roomInv {p : Params} (valid : p.valid = true) (u : Unspecified) :
    (State.powerOn p u).roomInv :=
  roomInv_of (State.powerOn_roomAt valid u) (Room.settled_of_off rfl) rfl fun handler => absurd rfl handler

/-! ## The counterexample -/

/-- MAIN with `I` = 1 and, at its position, a line of DEV_ISR: AUTO_TICK's test of the idle count, which is at the
rate. -/
def tickInMain : State := { State.reset with ie := true, mainPc := [.tickCompareRate 0] }

/-- The test goes on with the reset of the count and AUTO_WRITE. -/
def tickInMainNext : State := { tickInMain with mainPc := [.setIdleCounter 0, .selectReport, .autoStatus] }

/-- The checker lets the test stand where nothing is relied on, as it must in DEV_ISR. -/
theorem tickInMain_roomInv : tickInMain.roomInv :=
  have valid : Config.exampleParams.valid = true := by decide +kernel
  have known : RoomAt (.start true) State.reset := (State.powerOn_roomAt valid .zero).start rfl
  roomInv_of (k := .start true) { known with ie := fun _ => rfl } (fun _ => rfl) rfl fun handler => absurd rfl handler

theorem step_tickInMain : step tickInMain = .next tickInMainNext :=
  (step_of_script_nil rfl).trans (congrArg Host.Outcome.next (by decide +kernel))

/-- With `I` = 1 the SELECT of the report endpoint may not be relied on, so AUTO_WRITE's check of WRAL is not safe. -/
theorem tickInMainNext_not_roomInv : ¬ tickInMainNext.roomInv := by
  rintro ⟨_, _, safe⟩
  obtain ⟨⟨k, holds, position⟩, _⟩ := safe rfl
  obtain rfl : k = .start true := holds.settled (holds.ie rfl)
  cases position

/-- Refutes O60: `roomInv` does not ask that MAIN's position holds MAIN's own lines, and in MAIN with `I` = 1 a test
of AUTO_TICK passes the checker, while the AUTO_WRITE it goes on with does not. In a run MAIN has no such line, and
with that premise all that O60 says of a step holds (`step_roomInv_of_mainLines`). -/
theorem not_roomKept : ¬ Obligations.RoomKept := by
  intro kept
  obtain ⟨room, _⟩ := kept tickInMain tickInMainNext rfl (fun handler => absurd rfl handler) tickInMain_roomInv
    step_tickInMain
  exact tickInMainNext_not_roomInv room

end Sys2Proof.Machine
end

section
/-! PROOF. The controller signal decoder (44_decoder.md R330 to R334, R338). VOTE is compared with the count of set bits
(`voteNibble_eq`). The four terms of DECODE_GROUP share no set bit, so their sum is their union and every bit of the
answer is one vote (`groupOf_getLsbD`); the round trip reads these bits back. DECODE is the writes of the eight groups
to CState in rising order (`perform_decode`). -/

namespace Sys2Proof.Machine

open Sys2Proof

/-! ## VOTE and DECODE_RAW_BYTE (R330, R331) -/

theorem popcount_eq_countP (n : BitVec 4) : popcount n = (List.range 4).countP n.getLsbD := by
  have bits : List.range 4 = [0, 1, 2, 3] := rfl
  simp only [popcount, bits, List.countP_cons, List.countP_nil, Bool.toNat, Bool.cond_eq_ite]
  omega

theorem voteNibble_eq (n : BitVec 4) : voteNibble n = decide (2 < (List.range 4).countP n.getLsbD) := by
  rw [voteNibble, popcount_eq_countP]
  rfl

theorem voteNibble_highNibble (b : Byte) :
    voteNibble (highNibble b) = decide (2 < (List.range 4).countP fun k => b.getLsbD (4 + k)) := by
  have bits : (List.range 4).countP (highNibble b).getLsbD = (List.range 4).countP fun k => b.getLsbD (4 + k) :=
    List.countP_congr fun k hk => by simp [highNibble, List.mem_range.mp hk]
  rw [voteNibble_eq, bits]

theorem voteNibble_lowNibble (b : Byte) :
    voteNibble (lowNibble b) = decide (2 < (List.range 4).countP b.getLsbD) := by
  have bits : (List.range 4).countP (lowNibble b).getLsbD = (List.range 4).countP b.getLsbD :=
    List.countP_congr fun k hk => by simp [lowNibble, List.mem_range.mp hk]
  rw [voteNibble_eq, bits]

theorem highNibble_append (hi lo : BitVec 4) : highNibble (hi ++ lo) = hi := by
  refine BitVec.eq_of_getLsbD_eq fun j hj => ?_
  have appended := BitVec.getLsbD_append (x := hi) (y := lo) (i := 4 + j)
  simpa [highNibble, hj] using appended

theorem lowNibble_append (hi lo : BitVec 4) : lowNibble (hi ++ lo) = lo := by
  refine BitVec.eq_of_getLsbD_eq fun j hj => ?_
  have appended := BitVec.getLsbD_append (x := hi) (y := lo) (i := j)
  simpa [lowNibble, hj] using appended

/-- Settles O16: each answer is the model's function of the operand, which counts the set bits. -/
theorem decoderVotesAndSync : Obligations.DecoderVotesAndSync := by
  intro n b s running
  refine ⟨next_cpuOp running ?vote, next_cpuOp running ?bits, next_cpuOp running rfl⟩
  case vote => rw [voteNibble_eq]
  case bits => rw [rawBits, voteNibble_highNibble, voteNibble_lowNibble]

/-! ## DECODE_GROUP (R332) -/

theorem bitAt_getLsbD (b : Bool) {k j : Nat} (hj : j < 8) : (bitAt b k).getLsbD j = (decide (j = k) && b) := by
  by_cases h : j = k
  · subst h; simp [bitAt, hj]
  · rcases Nat.lt_or_gt_of_ne h with below | above
    · simp [bitAt, below, h]
    · have positive : j - k ≠ 0 := by omega
      simp [bitAt, h, positive]

/-- The bits of one raw byte's term: its two votes at their places, 0 elsewhere. -/
theorem groupTerm_getLsbD (b : Byte) (k : Nat) {j : Nat} (hj : j < 8) :
    (groupTerm b k).getLsbD j =
      (decide (j = 7 - 2 * k) && voteNibble (highNibble b) || decide (j = 6 - 2 * k) && voteNibble (lowNibble b)) := by
  rw [groupTerm, BitVec.getLsbD_or, bitAt_getLsbD _ hj, bitAt_getLsbD _ hj, rawBits]

/-- The terms of two different raw bytes of a group share no set bit. -/
theorem groupTerm_and_groupTerm (a b : Byte) {k l : Nat} (hl : l < 4) (hkl : k < l) :
    groupTerm a k &&& groupTerm b l = 0#8 := by
  refine BitVec.eq_of_getLsbD_eq fun j hj => ?_
  rw [BitVec.getLsbD_and, groupTerm_getLsbD _ _ hj, groupTerm_getLsbD _ _ hj]
  by_cases here : j = 7 - 2 * k ∨ j = 6 - 2 * k
  · have high : j ≠ 7 - 2 * l := by omega
    have low : j ≠ 6 - 2 * l := by omega
    simp [high, low]
  · simp only [not_or] at here
    simp [here]

/-- The sum of the four terms is their union. -/
theorem groupByte_eq_or (b0 b1 b2 b3 : Byte) :
    groupByte b0 b1 b2 b3 = groupTerm b0 0 ||| groupTerm b1 1 ||| groupTerm b2 2 ||| groupTerm b3 3 := by
  have first : groupTerm b0 0 &&& groupTerm b1 1 = 0#8 := groupTerm_and_groupTerm _ _ (by decide) (by decide)
  have second : (groupTerm b0 0 ||| groupTerm b1 1) &&& groupTerm b2 2 = 0#8 := by
    simp [BitVec.and_or_distrib_right, groupTerm_and_groupTerm]
  have third : (groupTerm b0 0 ||| groupTerm b1 1 ||| groupTerm b2 2) &&& groupTerm b3 3 = 0#8 := by
    simp [BitVec.and_or_distrib_right, groupTerm_and_groupTerm]
  rw [groupByte, BitVec.add_eq_or_of_and_eq_zero _ _ first, BitVec.add_eq_or_of_and_eq_zero _ _ second,
    BitVec.add_eq_or_of_and_eq_zero _ _ third]

/-- Raw byte `k` of the group gives bits 7 - 2k and 6 - 2k of the answer. -/
theorem groupOf_getLsbD (raw : List Byte) (i : Nat) {k : Nat} (hk : k < 4) :
    (groupOf raw i).getLsbD (7 - 2 * k) = voteNibble (highNibble (raw.getD (4 * i + k) 0)) ∧
      (groupOf raw i).getLsbD (6 - 2 * k) = voteNibble (lowNibble (raw.getD (4 * i + k) 0)) := by
  have high : 7 - 2 * k < 8 := by omega
  have low : 6 - 2 * k < 8 := by omega
  simp only [groupOf, groupByte_eq_or, BitVec.getLsbD_or, groupTerm_getLsbD _ _ high, groupTerm_getLsbD _ _ low]
  interval_cases k <;> simp

theorem exec_decodeGroup {raw : List Byte} {i : Nat} {s : State} (running : s.halted = false)
    (inside : 4 * i + 4 ≤ raw.length) : exec (.decodeGroup raw i) s = .next { s with ret := .byte (groupOf raw i) } :=
  (if_pos inside).trans (next_cpuOp running rfl)

/-- Settles O17: every bit of the answer is the vote of one nibble, which counts its set bits. -/
theorem decoderGroup : Obligations.DecoderGroup := by
  intro raw i s running length hi
  refine ⟨groupOf raw i, exec_decodeGroup running (by omega), fun k hk => ?_⟩
  rw [← voteNibble_highNibble, ← voteNibble_lowNibble]
  exact groupOf_getLsbD raw i hk

/-! ## The round trip (R338) -/

theorem groupOf_eq_of_nibbles {v : Byte} {n : Fin 8 → BitVec 4} {raw : List Byte} {i : Nat}
    (votes : ∀ k : Fin 8, v.getLsbD (7 - k.val) = voteNibble (n k))
    (packed : ∀ (k : Nat) (hk : k < 4), raw.getD (4 * i + k) 0 = n ⟨2 * k, by omega⟩ ++ n ⟨2 * k + 1, by omega⟩) :
    groupOf raw i = v := by
  refine BitVec.eq_of_getLsbD_eq fun j hj => ?_
  obtain ⟨k, hk, place⟩ : ∃ k, k < 4 ∧ (j = 7 - 2 * k ∨ j = 6 - 2 * k) := ⟨(7 - j) / 2, by omega, by omega⟩
  obtain ⟨high, low⟩ := groupOf_getLsbD raw i hk
  rcases place with rfl | rfl
  · rw [high, packed k hk, highNibble_append]
    exact (votes ⟨2 * k, by omega⟩).symm
  · have place : 7 - (2 * k + 1) = 6 - 2 * k := by omega
    rw [low, packed k hk, lowNibble_append, ← place]
    exact (votes ⟨2 * k + 1, by omega⟩).symm

/-- Settles O18: each bit of the answer is the vote of the nibble that encodes this bit of `v`. -/
theorem decoderRoundTrip : Obligations.DecoderRoundTrip := by
  intro v n raw i s running length hi votes raw0 raw1 raw2 raw3
  have decoded : groupOf raw i = v := by
    refine groupOf_eq_of_nibbles (n := n) (fun k => (votes k).trans (voteNibble_eq _).symm) fun k hk => ?_
    match k, hk with
    | 0, _ => exact raw0
    | 1, _ => exact raw1
    | 2, _ => exact raw2
    | 3, _ => exact raw3
  rw [exec_decodeGroup running (by omega), decoded]

/-! ## DECODE (R333) -/

/-- Writes at the first `n` addresses in rising order are the write of a list. -/
theorem foldl_memWrite_finRange (n : Nat) (f : Nat → Byte) (m : Memory) :
    (List.finRange n).foldl (fun m i => memWrite m i.val (f i.val)) m = memWriteList m 0 ((List.range n).map f) := by
  have rising : ∀ (n a : Nat) (m : Memory),
      (List.range' a n).foldl (fun m k => memWrite m k (f k)) m = memWriteList m a ((List.range' a n).map f) := by
    intro n
    induction n with
    | zero => exact fun _ _ => rfl
    | succ n ih => exact fun a m => ih (a + 1) (memWrite m a (f a))
  rw [List.range_eq_range', ← rising, ← List.range_eq_range', ← List.map_coe_finRange_eq_range, List.foldl_map]

theorem memRead_memWriteList_range {m : Memory} (wf : m.wf = true) (n : Nat) (f : Nat → Byte) (a : Nat) :
    memRead (memWriteList m 0 ((List.range n).map f)) a = if a < n then f a else memRead m a := by
  rw [memRead_memWriteList _ _ _ wf]
  by_cases inside : a < n <;> simp [inside]

theorem memBytes_getD (m : Memory) {n a : Nat} (h : a < n) : (memBytes m n).getD a 0 = memRead m a := by
  simp [memBytes, h]

/-- The four bytes of Raw that DECODE reads for a group are this group of its 32 bytes. -/
theorem groupByte_memRead (m : Memory) {i : Nat} (hi : i < 8) :
    groupByte (memRead m (4 * i)) (memRead m (4 * i + 1)) (memRead m (4 * i + 2)) (memRead m (4 * i + 3)) =
      groupOf (memBytes m 32) i := by
  rw [groupOf, memBytes_getD m (by omega), memBytes_getD m (by omega), memBytes_getD m (by omega),
    memBytes_getD m (by omega)]

/-- The state after DECODE. -/
def State.decoded (s : State) : State :=
  { s with cstate := memWriteList s.cstate 0 ((List.range 8).map (groupOf (memBytes s.raw 32))) }

theorem State.decoded_running {s : State} (running : s.halted = false) : s.decoded.halted = false := by
  rwa [State.decoded]

theorem runLines_decodeBytes (n : Nat) (ls : List Line) (is : List (Fin 8)) {s : State} (running : s.halted = false) :
    runLines (n + 5 * is.length) (is.map (fun i => .decodeByte i []) ++ ls) s =
      runLines n ls
        { s with cstate := is.foldl (fun m i => memWrite m i.val (groupOf (memBytes s.raw 32) i.val)) s.cstate } := by
  induction is generalizing s with
  | nil => rfl
  | cons i is ih =>
    rw [List.length_cons, Nat.mul_succ, ← Nat.add_assoc, List.map_cons, List.cons_append,
      runLines_decodeGroup _ i _ s running, groupByte_memRead s.raw i.isLt]
    exact ih running

theorem runLines_decode (n : Nat) (ls : List Line) {s : State} (running : s.halted = false) :
    runLines (n + 40) (decodeLines ++ ls) s = runLines n ls s.decoded := by
  rw [State.decoded, ← foldl_memWrite_finRange]
  exact runLines_decodeBytes n ls (List.finRange 8) running

theorem perform_decode {s : State} (running : s.halted = false) : perform decodeLines s = s.decoded := by
  refine perform_done running (Eq.trans ?_ ((runLines_decode 984 [] running).trans (runLines_nil _ _)))
  rw [List.append_nil]
  rfl

/-- Settles O19: the byte written at each address is this address's group of Raw. -/
theorem decoderDecode : Obligations.DecoderDecode := by
  intro s running wf
  obtain ⟨_, _, ⟨cstateWf, _⟩⟩ := wf
  refine ⟨s.decoded.cstate, congrArg Host.Outcome.next (perform_decode running), fun a u ha runs => ?_, fun a ha => ?_⟩
  · have inside : 4 * a + 4 ≤ (memBytes s.raw 32).length := by
      simp only [memBytes, List.length_map, List.length_range]
      omega
    rw [exec_decodeGroup runs inside, State.decoded, memRead_memWriteList_range cstateWf, if_pos ha]
  · rw [State.decoded, memRead_memWriteList_range cstateWf, if_neg (Nat.not_lt.mpr ha)]

end Sys2Proof.Machine
end

section
/-! PROOF. POLL_CYCLE (44_decoder.md R335) is put together from the runs of its parts. SEND, its last part, may pause or
halt (R293), so it is not given by its effect: its lines run within a fixed number of lines (`RunsWithin`), so the lines
that the parts in front have taken do not matter to it, and SEND behind them is SEND as a whole. -/

namespace Sys2Proof.Machine

open Sys2Proof

/-! ## How many lines a run can take -/

/-- From no state does a run of `ls` take more than `n` lines, wherever it stops. -/
def RunsWithin (n : Nat) (ls : List Line) : Prop := ∀ (s : State) (k : Nat), n ≤ k → runLines k ls s = runLines n ls s

theorem RunsWithin.nil : RunsWithin 0 [] := fun s _ _ => (runLines_nil _ s).trans (runLines_nil _ s).symm

theorem RunsWithin.mono {m n : Nat} {ls : List Line} (h : RunsWithin m ls) (hmn : m ≤ n) : RunsWithin n ls :=
  fun s k hk => (h s k (hmn.trans hk)).trans (h s n hmn).symm

/-- One line more than the lines behind it with those it puts in front of them. -/
theorem RunsWithin.cons {n : Nat} {l : Line} {ls : List Line} (ne : l ≠ .delay)
    (rest : ∀ s, RunsWithin n ((lineStep l s).2 ++ ls)) : RunsWithin (n + 1) (l :: ls) := by
  intro s k hk
  obtain ⟨k, rfl⟩ := Nat.exists_eq_add_of_le' (Nat.le_of_add_left_le hk)
  have passed : (l == Line.delay) = false := beq_false_of_ne ne
  simp only [runLines, passed]
  split
  case isTrue stopped => rfl
  case isFalse runs => exact rest s _ k (Nat.le_of_succ_le_succ hk)

theorem RunsWithin.paused {l : Line} (h : pauses l = true) (ls : List Line) : RunsWithin 1 (l :: ls) := by
  intro s k hk
  obtain ⟨k, rfl⟩ := Nat.exists_eq_add_of_le' hk
  have stopped : (s.halted || held l s || pauses l) = true := by simp [h]
  exact (runLines_stop stopped).trans (runLines_stop stopped).symm

/-! ## SEND (43_report.md R293) -/

theorem readReports_runsWithin {n : Nat} {ls : List Line} (is : List (Fin 8)) (rest : RunsWithin n ls) :
    RunsWithin (n + 2 * is.length) (is.map .readReport ++ ls) := by
  induction is with
  | nil => exact rest
  | cons i is ih => exact .cons (by simp) fun _ => .cons (by simp) fun _ => ih

theorem sendSuccess_runsWithin : RunsWithin 20 sendSuccessCode := by
  have close : RunsWithin 4 [.commitClr, .setIdleCounter 0, .restoreI, .ret (.sent SendResult.ok.code)] :=
    .cons (by simp) fun _ => .cons (by simp) fun _ => .cons (by simp) fun _ => .cons (by simp) fun _ => .nil
  exact readReports_runsWithin (List.finRange 8) close

theorem sendExpired_runsWithin : RunsWithin 4 [.sendExpired] := by
  refine .cons (by simp) fun s => ?_
  simp only [lineStep]
  split
  case isTrue => exact (RunsWithin.cons (by simp) fun _ => .nil).mono (by decide)
  case isFalse => exact .cons (by simp) fun _ => .cons (by simp) fun _ => .paused rfl []

theorem sendConfiguration_runsWithin : RunsWithin 5 [.sendConfiguration] := by
  refine .cons (by simp) fun s => ?_
  simp only [lineStep]
  split
  case isTrue => exact (RunsWithin.cons (by simp) fun _ => .nil).mono (by decide)
  case isFalse => exact sendExpired_runsWithin

theorem sendPoll_runsWithin : RunsWithin 21 [.sendPoll] := by
  refine .cons (by simp) fun s => ?_
  simp only [lineStep, sendPollNext, List.append_nil]
  split
  case isTrue => exact sendSuccess_runsWithin
  case isFalse => exact (RunsWithin.cons (by simp) fun _ => sendConfiguration_runsWithin).mono (by decide)

theorem send_runsWithin : RunsWithin 26 sendCode := by
  refine .cons (by simp) fun s => ?_
  simp only [lineStep]
  split
  case isTrue => exact (RunsWithin.cons (by simp) fun _ => .nil).mono (by decide)
  case isFalse =>
    exact .cons (by simp) fun _ => .cons (by simp) fun _ => .cons (by simp) fun _ => .cons (by simp) fun _ =>
      sendPoll_runsWithin

/-! ## The parts of POLL_CYCLE (R335) -/

/-- Raw with the sampler's 32 bytes in it. -/
def sampledRaw (raw : List Byte) (m : Memory) : Memory := memWriteList m 0 ((List.range 32).map fun k => raw.getD k 0)

theorem memRead_sampledRaw {raw : List Byte} {m : Memory} (wf : m.wf = true) {a : Nat} (ha : a < 32) :
    memRead (sampledRaw raw m) a = raw.getD a 0 := by
  rw [sampledRaw, memRead_memWriteList_range wf, if_pos ha]

/-- The state after POLL, with the bytes taken. -/
def State.polled (raw : List Byte) (s : State) : State :=
  { s with ext := s.ext ++ [.poll], raw := sampledRaw raw s.raw }

theorem State.polled_running {s : State} (running : s.halted = false) (raw : List Byte) :
    (s.polled raw).halted = false := by
  rwa [State.polled]

theorem memRead_polled_raw (raw : List Byte) {s : State} (wf : s.raw.wf = true) {a : Nat} (ha : a < 32) :
    memRead (s.polled raw).raw a = raw.getD a 0 := by
  rw [State.polled, memRead_sampledRaw wf ha]

/-- DELAY, SAMPLE and the writes to Raw, up to SYNC_CHECK. -/
theorem runLines_poll (n : Nat) (raw : List Byte) {s : State} (running : s.halted = false) :
    runLines (n + 34) (pollCycleCode (some raw)) s = runLines n [.syncCheck] (s.polled raw) := by
  rw [pollCycleCode, runLines_delay running, runLines_line running rfl rfl (by simp), Nat.add_comm, State.polled,
    sampledRaw, ← foldl_memWrite_finRange]
  exact runLines_fillRaw n [.syncCheck] raw (List.finRange 32) _ running

theorem runLines_badSync {s : State} (running : s.halted = false) (bad : memRead s.raw 0 ≠ Config.sync) :
    runLines 4 [.syncCheck] s = ({ s with ext := s.ext ++ [.probe], ret := .skipped }, []) := by
  have check : syncOk (memRead s.raw 0) = false := beq_false_of_ne bad
  rw [runLines_line running rfl rfl (by simp)]
  simp only [lineStep, check, Bool.false_eq_true, if_false, List.append_nil]
  rw [runLines_delay running, runLines_line running rfl rfl (by simp)]
  exact runLines_line (by exact running) rfl rfl (by simp)

theorem runLines_goodSync (n : Nat) {s : State} (running : s.halted = false) (good : memRead s.raw 0 = Config.sync) :
    runLines (n + 41) [.syncCheck] s = runLines n [.remapReport []] s.decoded := by
  have check : syncOk (memRead s.raw 0) = true := beq_iff_eq.mpr good
  rw [runLines_line running rfl rfl (by simp)]
  simp only [lineStep, check, if_true, List.append_nil]
  exact runLines_decode n [.remapReport []] running

/-- REMAP's reads of CState, one line each, up to REPORT_UPDATE and SEND. -/
theorem runLines_remapReport (n : Nat) {s : State} (running : s.halted = false) :
    runLines (n + 8) [.remapReport []] s =
      runLines n (reportUpdateCode (remapOf s.params (memBytes s.cstate 8)) ++ sendCode) s := by
  have bytes : List.range 8 = [0, 1, 2, 3, 4, 5, 6, 7] := rfl
  simp [runLines, running, held, pauses, lineStep, remapFrom, Config.stateSize, memBytes, bytes]

/-- REPORT_UPDATE with lines behind it. -/
theorem runLines_reportUpdate (n : Nat) (ls : List Line) {r : List Byte} {s : State} (running : s.halted = false)
    (h : r.length = 8) :
    runLines (n + 11) (reportUpdateCode r ++ ls) s = runLines n ls (perform (reportUpdateCode r) s) := by
  have bytes : List.finRange 8 = [0, 1, 2, 3, 4, 5, 6, 7] := rfl
  rw [perform_reportUpdate running h, ← foldl_memWrite_report _ h]
  simp [reportUpdateCode, runLines, running, held, pauses, lineStep, bytes]

/-- With a bad sync byte the cycle ends after PROBE. -/
theorem perform_pollCycle_bad {raw : List Byte} {s : State} (running : s.halted = false) (wf : s.raw.wf = true)
    (bad : raw.getD 0 0 ≠ Config.sync) :
    perform (pollCycleCode (some raw)) s =
      { s with ext := s.ext ++ [.poll, .probe], raw := sampledRaw raw s.raw, ret := .skipped } := by
  have first := memRead_polled_raw raw wf (a := 0) (by decide)
  have whole := (runLines_poll 4 raw running).trans (runLines_badSync (State.polled_running running raw) (first ▸ bad))
  rw [perform_done running (runLines_end_mono whole (by decide)), State.polled]
  simp only [List.append_assoc, List.cons_append, List.nil_append]

/-- With the sync byte the cycle is REPORT_UPDATE and SEND behind DECODE. -/
theorem perform_pollCycle_good {raw : List Byte} {s t : State} (running : s.halted = false) (wf : s.raw.wf = true)
    (good : raw.getD 0 0 = Config.sync) (decoded : (s.polled raw).decoded = t) :
    perform (pollCycleCode (some raw)) s =
      perform sendCode (perform (reportUpdateCode (remapOf t.params (memBytes t.cstate 8))) t) := by
  have polledRuns := State.polled_running running raw
  have decodedRuns : t.halted = false := decoded ▸ State.decoded_running polledRuns
  have first := memRead_polled_raw raw wf (a := 0) (by decide)
  have updated := perform_reportUpdate (r := remapOf t.params (memBytes t.cstate 8)) decodedRuns rfl
  refine perform_congr running (by rw [updated]; exact decodedRuns) ?_
  calc runLines lineBound (pollCycleCode (some raw)) s
    _ = runLines 990 [.syncCheck] (s.polled raw) := runLines_poll 990 raw running
    _ = runLines 949 [.remapReport []] t := by
      rw [← decoded]
      exact runLines_goodSync 949 polledRuns (first.trans good)
    _ = runLines 941 (reportUpdateCode (remapOf t.params (memBytes t.cstate 8)) ++ sendCode) t :=
      runLines_remapReport 941 decodedRuns
    _ = runLines 930 sendCode _ := runLines_reportUpdate 930 sendCode decodedRuns rfl
    _ = runLines lineBound sendCode _ :=
      (send_runsWithin _ 930 (by decide)).trans (send_runsWithin _ lineBound (by decide)).symm

/-- Settles O25: a bad sync byte ends the cycle after PROBE; behind a good one come the lines of DECODE, of REMAP, of
REPORT_UPDATE and of SEND. -/
theorem pollCycle : Obligations.PollCycle := by
  refine ⟨fun raw s running _ bad wf => ?skipped, fun raw s running _ good wf => ?sent⟩ <;>
    obtain ⟨_, ⟨rawWf, _⟩, _⟩ := wf
  case skipped =>
    exact ⟨sampledRaw raw s.raw, congrArg Host.Outcome.next (perform_pollCycle_bad running rawWf bad),
      fun a ha => memRead_sampledRaw rawWf ha⟩
  case sent =>
    have polledRuns := State.polled_running running raw
    exact ⟨sampledRaw raw s.raw, (s.polled raw).decoded, _, _, _, fun a ha => memRead_sampledRaw rawWf ha,
      congrArg Host.Outcome.next (perform_decode polledRuns), next_cpuOp (State.decoded_running polledRuns) rfl, rfl,
      rfl, congrArg Host.Outcome.next (perform_pollCycle_good running rawWf good rfl)⟩

end Sys2Proof.Machine
end

section
/-! PROOF. No nesting (60_exceptions.md R372). What a line of a handler expands to is lines of handlers again, and none
of them raises `I`, so a run of them keeps both; an operation that is not of MAIN runs such lines only, and one of MAIN
leaves the context in MAIN, where nothing is asked. -/

namespace Sys2Proof.Machine

open Sys2Proof

/-! ## What a line of a handler expands to -/

/-- A line of one of the two handlers, as `State.noNesting` has it. -/
def HandlerLine (l : Line) : Prop := devLine l = true ∨ epLine l = true

theorem HandlerLine.of_all_devLine {ls : List Line} (own : ls.all devLine = true) : ∀ l ∈ ls, HandlerLine l :=
  fun l hl => .inl (List.all_eq_true.mp own l hl)

theorem HandlerLine.of_all_epLine {ls : List Line} (own : ls.all epLine = true) : ∀ l ∈ ls, HandlerLine l :=
  fun l hl => .inr (List.all_eq_true.mp own l hl)

theorem configureCode_epLine (p : Params) (e : EpNum) : (configureCode p e).all epLine = true := by
  unfold configureCode
  split
  · split <;> rfl
  · rfl

theorem handlerBody_epLine (p : Params) (r : Request) (got : List Byte) :
    (handlerBody p r got).all epLine = true := by
  cases r
  case setConfiguration =>
    simp only [handlerBody, setConfigurationCode, List.all_append, configureCode_epLine, Bool.and_true]
    rfl
  case clearFeature => simp only [handlerBody, clearFeatureCode]; split <;> rfl
  case getDescriptor => simp only [handlerBody, getDescriptorCode]; split <;> rfl
  all_goals rfl

theorem handlerFrom_epLine (p : Params) (r : Request) (got : List Byte) :
    (handlerFrom p r got).all epLine = true := by
  unfold handlerFrom
  split
  · rfl
  · exact handlerBody_epLine p r got

theorem dispatchCode_epLine (p : Params) (r : Request) : (dispatchCode p r).all epLine = true := by
  have handler : (requestCode p r).all epLine = true := handlerFrom_epLine p r []
  unfold dispatchCode
  split
  · exact handler
  · rw [List.all_append, handler]; rfl

theorem fillBankCode_epLine (n : Nat) : (fillBankCode n).all epLine = true := by
  simp [fillBankCode, epLine]

theorem epLine_expands {l : Line} (hl : epLine l = true) (s : State) : (lineStep l s).2.all epLine = true := by
  cases l
  case dispatchOn => exact dispatchCode_epLine _ _
  case operand => exact handlerFrom_epLine _ _ _
  case cwFill => exact fillBankCode_epLine _
  case descLength => simp only [lineStep, sendDescriptorCode]; split <;> rfl
  case cwSource => simp only [lineStep, sourceCode]; split <;> rfl
  case setupStatus | cwWait | cwLoop => simp only [lineStep]; split <;> rfl
  case select | intakeByte | setReqByte | ackSetup | dispatch | setPhase | commit | waitTxrdy | setDevaddr
      | setUsbConfiguration | epConfigure | epReset | stall | setIdleRate | setIdleCounter | emitDiag | cwSetSrc
      | cwSetPos | cwSetRem | cwSetLast | cwByte | fifoWrite | readReport | cwAddPos | cwSubRem | ret | setI
      | fatalHalt => rfl
  all_goals cases hl

theorem HandlerLine.expands {l : Line} (hl : HandlerLine l) (s : State) :
    ∀ l' ∈ (lineStep l s).2, HandlerLine l' := by
  rcases hl with hdev | hep
  · obtain ⟨own, _⟩ := (devLineRuns hdev s).expands
    exact .of_all_devLine own
  · exact .of_all_epLine (epLine_expands hep s)

/-! ## Runs of a handler's lines -/

theorem HandlerLine.keeps_ie_off {l : Line} (hl : HandlerLine l) {s : State} (off : s.ie = false) :
    (lineStep l s).1.ie = false :=
  Bool.eq_false_of_not_eq_true fun on => Bool.eq_false_iff.mp off (handlerLine_ie_le hl on)

theorem runLines_handler {ls : List Line} (own : ∀ l ∈ ls, HandlerLine l) (n : Nat) {s : State}
    (off : s.ie = false) :
    (runLines n ls s).1.ie = false ∧ ∀ l ∈ (runLines n ls s).2, HandlerLine l :=
  runLines_invariant (·.ie = false) HandlerLine
    (fun _ s hl _ _ off => ⟨hl.keeps_ie_off off, hl.expands s⟩) n ls s own off

section
variable {s t : State}

theorem noNesting_of_main (hm : s.ctx = .main) : s.noNesting := fun handler => absurd hm handler

/-- The handler's line leaves the position, so the rest of it stays one of handler lines. -/
theorem lineStep_noNesting {l : Line} (hl : HandlerLine l) (h : s.noNesting) : (lineStep l s).1.noNesting := by
  intro handler
  have frame := lineStep_frame l s
  obtain ⟨off, own⟩ := h (frame.ctx ▸ handler)
  exact ⟨hl.keeps_ie_off off, frame.isrPc ▸ own⟩

theorem park_noNesting {ls : List Line} (h : s.noNesting) (own : s.ctx ≠ .main → ∀ l ∈ ls, HandlerLine l) :
    (s.park ls).noNesting := by
  unfold State.park
  split
  case h_1 hm => exact noNesting_of_main hm
  all_goals
    intro handler
    obtain ⟨off, rest⟩ := h handler
    exact ⟨off, List.forall_mem_append.mpr ⟨own handler, rest⟩⟩

/-- A procedure as a whole: one that runs in a handler's context consists of handler lines. -/
theorem perform_noNesting {ls : List Line} (own : s.halted = false → s.ctx ≠ .main → ∀ l ∈ ls, HandlerLine l)
    (h : s.noNesting) : (perform ls s).noNesting := by
  cases hh : s.halted
  case true => rwa [perform_halted hh]
  case false =>
    have frame := runLines_frame lineBound ls s
    rw [perform_parked hh rfl]
    refine park_noNesting (fun handler => ?kept) (fun handler => ?left)
    case kept =>
      obtain ⟨off, rest⟩ := h (frame.ctx ▸ handler)
      exact ⟨(runLines_handler (own hh (frame.ctx ▸ handler)) lineBound off).1, frame.isrPc ▸ rest⟩
    case left =>
      obtain ⟨off, _⟩ := h (frame.ctx ▸ handler)
      exact (runLines_handler (own hh (frame.ctx ▸ handler)) lineBound off).2

theorem handlerCode_own (c : Ctx) : ∀ l ∈ handlerCode c, HandlerLine l := by
  cases c
  case epIsr => exact .of_all_epLine rfl
  all_goals exact .of_all_devLine rfl

theorem interruptEntry_noNesting (c : Ctx) (s : State) : (interruptEntry c s).noNesting :=
  fun _ => ⟨rfl, handlerCode_own c⟩

theorem takeInterrupt_noNesting (c : Ctx) (h : s.noNesting) : (takeInterrupt c s).noNesting := by
  rcases takeInterrupt_cases c s with ⟨_, heq⟩ | ⟨_, u, ls, hrun, ⟨_, _, heq⟩ | ⟨_, heq⟩⟩ <;> rw [heq]
  · exact h
  · exact noNesting_of_main rfl
  · have body := runLines_handler (handlerCode_own c) lineBound (interruptEntry_ie c s)
    rw [hrun] at body
    exact fun _ => body

/-! ## One step -/

theorem mainStep_ctx (s : State) : (mainStep s).ctx = s.ctx := by
  rcases mainStep_cases s with heq | ⟨l, ls, _, _, heq⟩ <;> rw [heq]
  exact (lineStep_frame l s).ctx

theorem isrStep_noNesting (hm : s.ctx ≠ .main) (h : s.noNesting) : (isrStep s).noNesting := by
  rcases isrStep_cases s with ⟨_, heq⟩ | heq | ⟨l, ls, hpc, _, heq⟩ <;> rw [heq]
  · exact noNesting_of_main rfl
  · exact h
  · obtain ⟨off, own⟩ := h hm
    obtain ⟨hl, rest⟩ := List.forall_mem_cons.mp (hpc ▸ own)
    exact fun _ => ⟨HandlerLine.keeps_ie_off hl off, List.forall_mem_append.mpr ⟨HandlerLine.expands hl s, rest⟩⟩

theorem cpuStep_noNesting (h : s.noNesting) : (cpuStep s).noNesting := by
  rcases cpuStep_cases s with ⟨_, heq⟩ | ⟨_, hm, heq⟩ | ⟨_, _, _, heq⟩ | ⟨_, hm, _, heq⟩ | ⟨_, hm, _, heq⟩ <;> rw [heq]
  · exact h
  · exact isrStep_noNesting hm h
  · exact interruptEntry_noNesting _ _
  · exact noNesting_of_main ((mainStep_ctx _).trans hm)
  · exact noNesting_of_main ((mainStep_ctx s).trans hm)

/-- A running operation is where it belongs (00_scope.md R7; 10_state.md R52). -/
theorem ctx_of_runsNow {i : Instr} {c : Ctx} (hr : runsNow i s = true) (home : homeCtx i = some c)
    (running : s.halted = false) : s.ctx = c := by
  simp only [runsNow, running, home, Bool.false_or, beq_iff_eq] at hr
  exact hr.symm

theorem cpuOp_noNesting {f : State → State} (hf : (f s).noNesting) (h : s.noNesting) : (cpuOp f s).noNesting :=
  KeptByParts.cpuOp_kept (P := State.noNesting) (fun _ => hf) h

/-- A port primitive: its effect is that of a handler's line. -/
theorem cpuOp_line_noNesting {l : Line} (hl : HandlerLine l) (h : s.noNesting) :
    (cpuOp (fun s => (lineStep l s).1) s).noNesting :=
  cpuOp_noNesting (lineStep_noNesting hl h) h

/-- An operation that only answers a value. -/
theorem cpuOp_ret_noNesting (v : State → Ret) (h : s.noNesting) :
    (cpuOp (fun s => { s with ret := v s }) s).noNesting :=
  cpuOp_noNesting (s := s) (f := fun s => { s with ret := v s }) h h

theorem runRequest_noNesting (i : Instr) (r : Request) (h : s.noNesting) : (runRequest i r s).noNesting :=
  cpuOp_noNesting
    (perform_noNesting (s := withRequest i s) (fun _ _ => .of_all_epLine (dispatchCode_epLine _ _)) h) h

theorem exec_noNesting {i : Instr} (hr : runsNow i s = true) (hi : exec i s = .next t) (h : s.noNesting) :
    t.noNesting := by
  cases i
  case hBusReset | hSof | hSetup | hIn | hOut | hDeveventOther =>
    have ports : OnlyPortChanges s t := exec_hostAction_onlyPort rfl hi
    rw [ports]
    exact h
  case setAddress | setConfiguration | clearFeature | setIdle | getDescriptor | getReport | fatalUnhandled =>
    cases hi; exact runRequest_noNesting _ _ h
  case devIsr | epIsr => cases hi; exact takeInterrupt_noNesting _ h
  case eorstHandler | autoTick | autoWrite =>
    cases hi; exact perform_noNesting (fun _ _ => .of_all_devLine rfl) h
  case setupIntake | ctrlFifoWrite => cases hi; exact perform_noNesting (fun _ _ => .of_all_epLine rfl) h
  case send | reportUpdate | decode | pollCycle =>
    cases hi; exact perform_noNesting (fun running handler => absurd (ctx_of_runsNow hr rfl running) handler) h
  case descSearch v x => cases hi; exact cpuOp_ret_noNesting (fun s => .entry (descSearch s.params v x)) h
  case syncCheck => cases hi; exact cpuOp_ret_noNesting (fun s => .flag (syncOk (memRead s.raw 0))) h
  case remap c => cases hi; exact cpuOp_ret_noNesting (fun s => .report (remapOf s.params c)) h
  case vote n => cases hi; exact cpuOp_ret_noNesting (fun _ => .flag (voteNibble n)) h
  case decodeRawByte b => cases hi; exact cpuOp_ret_noNesting (fun _ => .bits (rawBits b).1 (rawBits b).2) h
  case decodeGroup raw k =>
    simp only [exec, execDecodeGroup] at hi
    split at hi
    · cases hi; exact cpuOp_ret_noNesting (fun _ => .byte (groupOf raw k)) h
    · cases hi
  case readStatus => cases hi; exact cpuOp_ret_noNesting (fun s => .status (s.ep s.epSel).status) h
  case readFrame => cases hi; exact cpuOp_ret_noNesting (fun s => .frame s.frame) h
  case readDevint => cases hi; exact cpuOp_ret_noNesting (fun s => .events s.events) h
  case select e => cases hi; exact cpuOp_line_noNesting (l := .select e) (.inl rfl) h
  case ackSetup => cases hi; exact cpuOp_line_noNesting (l := .ackSetup) (.inr rfl) h
  case commit => cases hi; exact cpuOp_line_noNesting (l := .commit) (.inr rfl) h
  case commitClr => cases hi; exact cpuOp_line_noNesting (l := .commitClr) (.inl rfl) h
  case fifoRead =>
    have read : (portFifoRead s).2.noNesting := lineStep_noNesting (l := .intakeByte 0) (.inr rfl) h
    cases hi; exact cpuOp_noNesting read h
  case fifoWrite b => cases hi; exact cpuOp_line_noNesting (l := .fifoWrite b) (.inl rfl) h
  case stall => cases hi; exact cpuOp_line_noNesting (l := .stall) (.inr rfl) h
  case epReset => cases hi; exact cpuOp_line_noNesting (l := .epReset) (.inr rfl) h
  case epConfigure c => cases hi; exact cpuOp_line_noNesting (l := .epConfigure c) (.inr rfl) h
  case ep0Init => cases hi; exact cpuOp_line_noNesting (l := .ep0Init) (.inl rfl) h
  case setDevaddr a => cases hi; exact cpuOp_line_noNesting (l := .setDevaddr a) (.inr rfl) h
  case clearDevint => cases hi; exact cpuOp_line_noNesting (l := .clearDevint) (.inl rfl) h
  case armSetupIrq => cases hi; exact cpuOp_line_noNesting (l := .armSetupIrq) (.inl rfl) h

end

/-- Settles O48: the CPU's own step enters a handler with `I` = 0, runs one of its lines or returns from it, and an
operation that is due is run in its own context only. -/
theorem noNestingKept : Obligations.NoNestingKept := by
  intro s t h hstep
  rcases step_cases hstep with rfl | ⟨entry, entries, n, _, _, rfl⟩ | ⟨entry, entries, i, _, _, _, _, hr, hexec⟩
  · exact cpuStep_noNesting h
  · exact cpuStep_noNesting (s := { s with script := { entry with wait := .steps n } :: entries }) h
  · exact exec_noNesting (s := { s with script := entries }) hr hexec h

end Sys2Proof.Machine
end

section
/-! PROOF. Faults and the halt (60_exceptions.md R380), and which of two pending handlers may be entered (R371, R373). A
line of a running machine leaves the fault trace and the halt as they are, or raises one fault; no other part of a step
touches them, and after the halt no line runs. -/

namespace Sys2Proof.Machine

open Sys2Proof

/-! ## Faults (R380) -/

/-- Nothing raised, or one fault raised: its record, the halt, and `I` = 0 (R380). -/
def RaisesAtMostOne (s t : State) : Prop :=
  (t.halted = s.halted ∧ t.fault = s.fault) ∨
    ∃ r, t.halted = true ∧ t.ie = false ∧ t.fault = s.fault ++ [r]

theorem RaisesAtMostOne.none {s t : State} (halted : t.halted = s.halted) (fault : t.fault = s.fault) :
    RaisesAtMostOne s t := .inl ⟨halted, fault⟩

theorem RaisesAtMostOne.raise (r : FaultRecord) (s : State) : RaisesAtMostOne s (raiseFault r s) :=
  .inr ⟨r, rfl, rfl, rfl⟩

/-- What a write of a bank comes to: dropped, a PORT_MISUSE, or an endpoint changed (40_port.md R153, R154, R156). -/
theorem RaisesAtMostOne.of_write {s t : State} {r : FaultRecord} {e : EpNum} {g : Endpoint → Endpoint}
    (h : t = s ∨ t = raiseFault r s ∨ t = s.modEp e g) : RaisesAtMostOne s t := by
  rcases h with rfl | rfl | rfl
  · exact .none rfl rfl
  · exact .raise r s
  · exact .none rfl rfl

theorem lineStep_raisesAtMostOne (l : Line) (s : State) : RaisesAtMostOne s (lineStep l s).1 := by
  cases l
  case commit =>
    exact .of_write ((portCommit_cases s).imp (fun ⟨_, h⟩ => h) (.imp (fun ⟨_, _, h⟩ => h) fun ⟨_, _, h⟩ => h))
  case commitClr =>
    exact .of_write ((portCommitClr_cases s).imp (fun ⟨_, h⟩ => h) (.imp (fun ⟨_, _, h⟩ => h) fun ⟨_, _, h⟩ => h))
  case fifoWrite b =>
    exact .of_write ((portFifoWrite_cases b s).imp (fun ⟨_, h⟩ => h) (.imp (fun ⟨_, _, h⟩ => h) fun ⟨_, h⟩ => h))
  case fatalHalt req => exact .raise (.unhandledRequest req) s
  case intakeByte =>
    rcases portFifoRead_cases s with ⟨_, heq⟩ | ⟨_, _, _, heq⟩ <;> simp only [lineStep, heq] <;> exact .none rfl rfl
  case sample raw => cases raw <;> exact .none rfl rfl
  all_goals exact .none rfl rfl

theorem State.haltRecorded_of_running {s : State} (running : s.halted = false) : s.haltRecorded ↔ s.fault = [] := by
  simp [State.haltRecorded, running]

theorem RaisesAtMostOne.haltRecorded {s t : State} (raised : RaisesAtMostOne s t) (running : s.halted = false)
    (h : s.haltRecorded) : t.haltRecorded := by
  have empty := (State.haltRecorded_of_running running).mp h
  rcases raised with ⟨halted, fault⟩ | ⟨r, halted, off, fault⟩
  · exact (State.haltRecorded_of_running (halted.trans running)).mpr (fault.trans empty)
  · simp [State.haltRecorded, halted, off, fault, empty]

theorem haltRecorded_keptByParts : KeptByParts State.haltRecorded where
  line l s running h := (lineStep_raisesAtMostOne l s).haltRecorded running h
  entry c s running h :=
    RaisesAtMostOne.haltRecorded (.none (interruptEntry_halted c s) (interruptEntry_fault c s)) running h
  exit {s} running h :=
    RaisesAtMostOne.haltRecorded (.none (returnFromInterrupt_halted s) (returnFromInterrupt_fault s)) running h
  host ports h := by rw [ports]; exact h
  isrPc _ h := h
  mainPc _ h := h
  req _ h := h
  script _ h := h
  draws _ h := h
  ret _ h := h

/-- Settles O49: every part of a step keeps the record and the halt together. -/
theorem haltRecordedKept : Obligations.HaltRecordedKept :=
  fun _ _ h hstep => haltRecorded_keptByParts.step_kept hstep h

/-! ## The order of the handlers (R371, R373) -/

section
variable {s : State}

theorem State.canEnter_main (s : State) : s.canEnter .main = false := by simp [State.canEnter]

theorem State.canEnter_devIsr (hm : s.ctx = .main) (on : s.ie = true) (running : s.halted = false) :
    s.canEnter .devIsr = s.devFirst true := by
  simp [State.canEnter, hm, on, running]

theorem State.canEnter_epIsr (hm : s.ctx = .main) (on : s.ie = true) (running : s.halted = false) :
    s.canEnter .epIsr = (s.epPending && !s.devFirst false) := by
  simp [State.canEnter, hm, on, running]

theorem State.devFirst_of_not_devPending (dev : Bool) (h : s.devPending = false) : s.devFirst dev = false := by
  simp [State.devFirst, h]

theorem State.devFirst_of_not_epPending (dev : Bool) (h : s.epPending = false) : s.devFirst dev = s.devPending := by
  simp [State.devFirst, h]

/-- With both sources pending the order settles it, and EITHER leaves it free (R373). -/
theorem State.devFirst_iff_of_both {dev : Bool} (hd : s.devPending = true) (he : s.epPending = true) :
    s.devFirst dev = true ↔
      s.params.isrOrder = .devFirst ∨ s.params.isrOrder = .either ∧ dev = true := by
  cases ho : s.params.isrOrder <;> simp [State.devFirst, hd, he, ho]

end

/-- Settles O44: a handler whose source is not pending may not be entered, and of two pending ones the order decides. -/
theorem isrOrderDecides : Obligations.IsrOrderDecides := by
  intro s hm on running
  rw [State.canEnter_devIsr hm on running, State.canEnter_epIsr hm on running]
  refine ⟨State.canEnter_main s, fun noDev => ?_, fun noEp => ?_, fun hd he => ?_⟩
  · simp [State.devFirst_of_not_devPending _ noDev]
  · simp [State.devFirst_of_not_epPending _ noEp, noEp]
  · rw [he, Bool.true_and, Bool.not_eq_true', ← Bool.not_eq_true, State.devFirst_iff_of_both hd he,
      State.devFirst_iff_of_both hd he]
    cases s.params.isrOrder <;> simp

end Sys2Proof.Machine
end

section
/-! PROOF. The stuck holds (70_reset_and_hazards.md R417). No packet reaches a disabled endpoint (40_port.md R170), and a
bus reset leaves it disabled, so no HOST action frees a bank of endpoint 0 or sets RXOUT[0], and the CPU has no step in
the hold. -/

namespace Sys2Proof.Machine

open Sys2Proof

section
variable {s t : State}

/-! ## What a HOST action does to a disabled endpoint -/

/-- A transaction changes one endpoint and the host's trace. -/
theorem hostSees_modEp_ep_ne {e e' f : EpNum} {o : HostOutcome} {g : Endpoint → Endpoint} (h : f ≠ e) :
    (hostSees e' o (s.modEp e g)).ep f = s.ep f :=
  (State.ep_modEp s e f g).trans (if_neg h)

/-- A packet changes the endpoint it is sent to, and that one is enabled. -/
theorem ne_of_disabled {e f : EpNum} (off : (s.ep f).en = false) (on : ¬ (!(s.ep e).en) = true) : f ≠ e := by
  rintro rfl
  exact on (by rw [off]; rfl)

theorem hostSetup_ep_disabled (a : DevAddr) (p : List Byte) {f : EpNum} (off : (s.ep f).en = false) :
    (hostSetup a p s).ep f = s.ep f := by
  unfold hostSetup
  split
  · rfl
  split
  · rfl
  case isFalse on => exact hostSees_modEp_ep_ne (ne_of_disabled off on)

theorem hostIn_ep_disabled (a : DevAddr) (e : EpNum) {f : EpNum} (off : (s.ep f).en = false) :
    (hostIn a e s).ep f = s.ep f := by
  unfold hostIn
  split
  · rfl
  split
  · rfl
  case isFalse on =>
    have other := ne_of_disabled off on
    split
    · exact hostSees_modEp_ep_ne other
    split <;> exact hostSees_modEp_ep_ne other

theorem hostOut_ep_disabled (a : DevAddr) (e : EpNum) (d : List Byte) {f : EpNum} (off : (s.ep f).en = false) :
    (hostOut a e d s).ep f = s.ep f := by
  unfold hostOut
  split
  · rfl
  split
  · rfl
  case isFalse on =>
    have other := ne_of_disabled off on
    split
    · exact hostSees_modEp_ep_ne other
    split
    case isTrue accepted =>
      obtain ⟨rfl, _⟩ := accepted
      exact hostSees_modEp_ep_ne other
    case isFalse => rfl

/-- A HOST action leaves a disabled endpoint as it is, or resets it (R170, R171). -/
theorem exec_hostAction_ep_disabled {i : Instr} {f : EpNum} (hi : isHostAction i = true) (h : exec i s = .next t)
    (off : (s.ep f).en = false) : t.ep f = s.ep f ∨ t.ep f = (s.ep f).busReset := by
  cases i with
  | hBusReset =>
    obtain rfl := Host.Outcome.next.inj h
    split
    · exact .inr (hostBusReset_ep s f)
    · exact .inl rfl
  | hSof | hDeveventOther =>
    obtain rfl := Host.Outcome.next.inj h
    split <;> exact .inl rfl
  | hIn a e =>
    obtain rfl := Host.Outcome.next.inj h
    split
    · exact .inl (hostIn_ep_disabled a e off)
    · exact .inl rfl
  | hSetup a p =>
    simp only [exec, execHSetup] at h
    split at h
    · cases h; exact .inl rfl
    split at h
    · cases h
    · cases h; exact .inl (hostSetup_ep_disabled a p off)
  | hOut a e d =>
    simp only [exec, execHOut] at h
    split at h
    · cases h; exact .inl rfl
    split at h
    · cases h
    · cases h; exact .inl (hostOut_ep_disabled a e d off)
  | _ => cases hi

/-! ## The holds -/

theorem Endpoint.txrdy_of_disabled {x : Endpoint} (off : x.en = false) : x.txrdy = false := by
  rw [Endpoint.txrdy, off, Bool.false_and]

/-- The CPU has no step in a stuck hold (R417). -/
theorem cpuStep_of_stuckInWait (h : s.stuckInWait) : cpuStep s = s := by
  obtain ⟨handler, off, _, l, ls, hpc, hold⟩ := h
  have noBank := Endpoint.txrdy_of_disabled off
  have waits : held l s = true := by
    rcases hold with rfl | ⟨rfl, noOut⟩
    · simp [held, noBank]
    · simp [held, noBank, noOut]
  simp [cpuStep, handler, isrStep, hpc, waits]

theorem State.stuckInWait.scripted {entries : List ScriptEntry} (h : s.stuckInWait)
    (hosts : entries.all hostEntry = true) : { s with script := entries }.stuckInWait := by
  obtain ⟨handler, off, _, hold⟩ := h
  exact ⟨handler, off, hosts, hold⟩

/-- A HOST action touches neither the schedule nor the control engine. -/
theorem OnlyPortChanges.script_ce (h : OnlyPortChanges s t) : t.script = s.script ∧ t.ce = s.ce := by
  rw [h]
  exact ⟨rfl, rfl⟩

/-- A HOST action leaves the hold and what it waits for as they are. -/
theorem exec_hostAction_stuckInWait {i : Instr} (hi : isHostAction i = true) (hexec : exec i s = .next t)
    (h : s.stuckInWait) : t.stuckInWait := by
  obtain ⟨handler, off, hosts, l, ls, hpc, hold⟩ := h
  have ports := exec_hostAction_onlyPort hi hexec
  obtain ⟨_, ctx, isrPc, _, _⟩ := ports.unchanged
  obtain ⟨script, _⟩ := ports.script_ce
  have kept : (t.ep 0).en = false ∧ ((s.ep 0).rxout = false → (t.ep 0).rxout = false) := by
    rcases exec_hostAction_ep_disabled hi hexec off with same | reset
    · rw [same]; exact ⟨off, id⟩
    · rw [reset]; exact ⟨rfl, fun _ => rfl⟩
  obtain ⟨off', noOut⟩ := kept
  exact ⟨ctx.trans handler, off', by rwa [State.hostScript, script], l, ls, isrPc.trans hpc,
    hold.imp_right (And.imp_right noOut)⟩

end

/-- Settles O55: the CPU has no step in the hold, and no HOST action ends it. -/
theorem stuckInWait : Obligations.StuckInWait := by
  intro s t h hstep
  have ⟨_, _, hosts, _⟩ := h
  obtain ⟨entries, hentries, rfl | ⟨i, hi, hexec⟩⟩ := hostScript_step_cases hosts hstep
  · rw [cpuStep_of_stuckInWait (h.scripted hentries)]
    exact ⟨h.scripted hentries, rfl, rfl, rfl⟩
  · have ports := exec_hostAction_onlyPort hi hexec
    obtain ⟨_, _, isrPc, mainPc, _⟩ := ports.unchanged
    obtain ⟨_, ce⟩ := ports.script_ce
    exact ⟨exec_hostAction_stuckInWait hi hexec (h.scripted hentries), isrPc, mainPc, ce⟩

end Sys2Proof.Machine
end

section
/-! PROOF. Reset (10_state.md R53, 70_reset_and_hazards.md R410 to R412). At power-on every memory reads as the bytes
given and every endpoint is disabled and empty, and the invariants hold. BOOT is one MAIN line after the other, with no
entry between them: `I` is 0, and then nothing is pending. A bus reset clears RXSTP[0], so DEV_ISR alone is pending,
and with `usb_configuration` 0 its AUTO_TICK does nothing. -/

namespace Sys2Proof.Machine

open Sys2Proof

/-! ## A bus reset and its handler (R411) -/

section
variable {s : State}

/-- Only DEV_ISR may be entered after a bus reset, whatever ISR_ORDER is (60_exceptions.md R371, R373). -/
theorem hostBusReset_canEnter (hm : s.ctx = .main) (on : s.ie = true) (running : s.halted = false)
    (enabled : s.eorste = true) : (hostBusReset s).canEnter .devIsr = true := by
  have noSetup : (hostBusReset s).epPending = false := by rw [State.epPending, hostBusReset_ep]; rfl
  have pending : (hostBusReset s).devPending = true := by simp [State.devPending, hostBusReset, enabled]
  rw [State.canEnter_devIsr (s := hostBusReset s) hm on running, State.devFirst_of_not_epPending _ noSetup, pending]

/-- DEV_ISR with EORST set: EORST_HANDLER unconfigures the device, so AUTO_TICK finds the path inactive (41_enumeration.md
R201, R202, 43_report.md R290). -/
theorem exec_devIsr_endOfReset (enter : s.canEnter .devIsr = true) (eorst : s.eorst = true) :
    exec .devIsr s = .next (returnFromInterrupt (endOfResetState (devIsrCleared s))) := by
  have running := State.halted_of_canEnter enter
  obtain ⟨afterReset, afterTick, reset, tick, whole⟩ := devIsr s enter
  have hreset : afterReset = endOfResetState (devIsrCleared s) := by
    rw [if_pos eorst] at reset
    exact (Host.Outcome.next.inj reset).symm.trans (perform_eorst (s := devIsrCleared s) running)
  have htick : afterTick = afterReset := by
    obtain ⟨inactive, _⟩ := autoTick afterReset (hreset ▸ running)
    rw [inactive (.inl (hreset ▸ rfl)), ite_self] at tick
    exact (Host.Outcome.next.inj tick).symm
  have notHalted : ¬ (endOfResetState (devIsrCleared s)).halted = true := Bool.eq_false_iff.mp running
  rw [whole, htick, hreset, if_neg notHalted]
  rfl

theorem endOfResetState_ep_ne {e : EpNum} (he : e ≠ 0) : (endOfResetState s).ep e = s.ep e :=
  (State.ep_modEp s 0 e _).trans (if_neg he)

end

/-- Settles O58: DEV_ISR is entered for the end of reset, and EORST_HANDLER's effect is all it adds to the bus reset. -/
theorem busResetCompletes : Obligations.BusResetCompletes := by
  intro s attached hm on running enabled
  have handled := exec_devIsr_endOfReset (hostBusReset_canEnter hm on running enabled) rfl
  refine ⟨hostBusReset s, _, next_ifAttached attached rfl, handled, ?block, ?control, fun e he => ?others⟩
  case block =>
    cases s
    cases hm
    cases on
    rfl
  case control =>
    rw [returnFromInterrupt_ep, endOfResetState_ep]
    have reset : (devIsrCleared (hostBusReset s)).ep 0 = (s.ep 0).busReset := hostBusReset_ep s 0
    rw [reset]
    rfl
  case others =>
    rw [returnFromInterrupt_ep, endOfResetState_ep_ne he]
    exact hostBusReset_ep s e

/-! ## Power-on (R53, R410) -/

/-- The first bytes of a space made of exactly as many. -/
theorem memBytes_memOfBytes (bs : List Byte) : memBytes (memOfBytes bs) bs.length = bs := by
  refine List.ext_getElem (by simp [memBytes]) fun k _ hk => ?_
  simp [memBytes, memRead_memOfBytes, hk]

section
variable (p : Params) (u : Unspecified)

theorem State.powerOn_haltRecorded : (State.powerOn p u).haltRecorded :=
  (State.haltRecorded_of_running rfl).mpr rfl

theorem State.powerOn_mainLines : ∀ l ∈ (State.powerOn p u).mainPc, mainLine l = true :=
  List.all_eq_true.mp rfl

theorem State.powerOn_phaseInv : (State.powerOn p u).phaseInv :=
  (State.phaseInv_main rfl).mpr ⟨State.powerOn_mainLines p u, rfl⟩

/-- The count starts at 0, below every rate that is not 0 (43_report.md R291). -/
theorem State.powerOn_idleInv : (State.powerOn p u).idleInv := by
  have below : p.idleDefault = 0 ∨ (0 : Byte).toNat < p.idleDefault.toNat :=
    (eq_or_ne p.idleDefault 0).imp_right fun rate => by bv_omega
  refine ⟨State.powerOn_mainLines p u, fun v h => ?_, nofun, rfl, below⟩
  cases List.mem_singleton.mp h

theorem State.powerOn_sectionInv : (State.powerOn p u).sectionInv := ⟨State.powerOn_mainLines p u, rfl⟩

variable {p u}

theorem State.powerOn_memoryWf (report : p.reportInit.length ≤ 8) (raw : u.raw.length ≤ 32)
    (cstate : u.cstate.length ≤ 8) : (State.powerOn p u).memoryWf :=
  ⟨⟨memOfBytes_wf _, memOfBytes_below report⟩, ⟨memOfBytes_wf _, memOfBytes_below raw⟩,
    ⟨memOfBytes_wf _, memOfBytes_below cstate⟩⟩

end

/-- Settles O59: each invariant at power-on, for all parameters and then for State.reset's. -/
theorem resetInvariants : Obligations.ResetInvariants := by
  have valid : Config.exampleParams.valid = true := by decide +kernel
  have fits : Config.exampleParams.reportInit.length ≤ 8 := Nat.le_refl 8
  exact ⟨fun p u => ⟨noNesting_of_main rfl, State.powerOn_haltRecorded p u, rfl, State.powerOn_phaseInv p u,
      State.powerOn_idleInv p u, State.powerOn_sectionInv p u⟩,
    fun _ _ => State.powerOn_memoryWf, fun _ u h => State.powerOn_roomInv h u,
    noNesting_of_main rfl, State.powerOn_haltRecorded _ _, State.powerOn_memoryWf fits (Nat.zero_le _) (Nat.zero_le _),
    State.powerOn_phaseInv _ _, State.powerOn_idleInv _ _, State.powerOn_sectionInv _ _,
    State.powerOn_roomInv valid _, rfl⟩

/-! ## BOOT (R412) -/

/-- A run goes on from the state its first step leads to. -/
theorem coreRun_of_step {M : Host.Core} {s t : M.State} (n : Nat) (h : M.step s = .next t) :
    M.run (n + 1) s = M.run n t := by
  simp only [Host.Core.run, h]

theorem runSteps_of_step {s t : State} (n : Nat) (h : step s = .next t) : runSteps (n + 1) s = runSteps n t :=
  coreRun_of_step (M := core) n h

section
variable {s : State}

theorem State.mayEnter_of_ie_off (off : s.ie = false) : s.mayEnter = false :=
  Bool.eq_false_of_not_eq_true fun h => Bool.eq_false_iff.mp off (State.ie_of_mayEnter h)

theorem State.mayEnter_of_nothing_pending (noDev : s.devPending = false) (noEp : s.epPending = false) :
    s.mayEnter = false := by
  simp [State.mayEnter, State.canEnter, State.devFirst_of_not_devPending _ noDev, noEp]

/-- With no entry and nothing scheduled a step is the next line of MAIN. -/
theorem step_mainLine {t : State} {l : Line} {ls : List Line} (script : s.script = []) (hm : s.ctx = .main)
    (running : s.halted = false) (noEntry : s.mayEnter = false) (code : mainCode s = l :: ls)
    (free : held l s = false) (leads : { (lineStep l s).1 with mainPc := (lineStep l s).2 ++ ls } = t) :
    step s = .next t := by
  rw [step_of_script_nil script, ← leads]
  simp [cpuStep, running, hm, noEntry, mainStep, code, free]

end

section
variable (p : Params) (u : Unspecified)

/-- After BOOT's first line, the enable of end-of-reset. -/
def State.bootEorste : State := { State.powerOn p u with eorste := true, mainPc := [.enableSof, .attach, .setI true] }

/-- After the enable of start-of-frame. -/
def State.bootSofe : State := { State.bootEorste p u with sofe := true, mainPc := [.attach, .setI true] }

/-- After the attachment. -/
def State.bootAttached : State := { State.bootSofe p u with attached := true, mainPc := [.setI true] }

/-- After BOOT: `I` = 1, MAIN at the start of its loop. -/
def State.bootDone : State := { State.bootAttached p u with ie := true, mainPc := [] }

theorem step_powerOn : step (State.powerOn p u) = .next (State.bootEorste p u) :=
  step_mainLine rfl rfl rfl (State.mayEnter_of_ie_off rfl) rfl rfl rfl

theorem step_bootEorste : step (State.bootEorste p u) = .next (State.bootSofe p u) :=
  step_mainLine rfl rfl rfl (State.mayEnter_of_ie_off rfl) rfl rfl rfl

theorem step_bootSofe : step (State.bootSofe p u) = .next (State.bootAttached p u) :=
  step_mainLine rfl rfl rfl (State.mayEnter_of_ie_off rfl) rfl rfl rfl

theorem step_bootAttached : step (State.bootAttached p u) = .next (State.bootDone p u) :=
  step_mainLine rfl rfl rfl (State.mayEnter_of_ie_off rfl) rfl rfl rfl

/-- `I` is 1, but nothing is pending yet, so MAIN begins the DELAY of its first POLL_CYCLE (44_decoder.md R335). -/
theorem step_bootDone : step (State.bootDone p u) = .next
    { State.bootDone p u with
      mainPc := (if Config.delayMore 0 then [.delay] else []) ++ [.sample none, .syncCheck], draws := 1 } := by
  have noSetup : (State.bootDone p u).epPending = false := by
    have ep : (State.bootDone p u).ep 0 = _ := State.powerOn_ep p u 0
    rw [State.epPending, ep]
    rfl
  exact step_mainLine rfl rfl rfl (State.mayEnter_of_nothing_pending rfl noSetup) rfl rfl rfl

end

/-- Settles O57: the values as they are given, and BOOT's lines one step each. -/
theorem powerOnAndBoot : Obligations.PowerOnAndBoot := by
  refine ⟨fun p u size => ?values, fun p u => ?boot⟩
  case values =>
    have report : memBytes (memOfBytes p.reportInit) 8 = p.reportInit := size ▸ memBytes_memOfBytes p.reportInit
    refine ⟨rfl, rfl, rfl, rfl, rfl, rfl, rfl, rfl, report, rfl, fun e => ?endpoint, rfl, rfl, rfl, rfl, rfl, rfl, rfl,
      rfl, rfl, rfl, rfl, rfl, rfl, rfl⟩
    case endpoint =>
      rw [State.powerOn_ep]
      exact ⟨rfl, rfl, rfl, rfl, rfl, rfl, rfl, rfl, rfl, rfl⟩
  case boot =>
    have first (n : Nat) := runSteps_of_step n (step_powerOn p u)
    have second (n : Nat) := (first (n + 1)).trans (runSteps_of_step n (step_bootEorste p u))
    have third (n : Nat) := (second (n + 1)).trans (runSteps_of_step n (step_bootSofe p u))
    have fourth (n : Nat) := (third (n + 1)).trans (runSteps_of_step n (step_bootAttached p u))
    have fifth (n : Nat) := (fourth (n + 1)).trans (runSteps_of_step n (step_bootDone p u))
    refine ⟨first 0, second 0, third 0, fourth 0, _, ?left, fifth 0⟩
    case left =>
      cases Config.delayMore 0
      · exact .inr rfl
      · exact .inl rfl

end Sys2Proof.Machine
end

section
/-! PROOF. The memories (20_memory.md R80) and the context (10_state.md R31, 60_exceptions.md R371, R374). Three lines
write a memory, each at an address its operand keeps inside the space. No line writes the context, so a step that
changes it is an interrupt's entry or its return. -/

namespace Sys2Proof.Machine

open Sys2Proof

/-! ## The three memories (R80) -/

/-- The canonical form, with every address below `n`: one conjunct of `State.memoryWf`. -/
def Memory.within (n : Nat) (m : Memory) : Prop := m.wf = true ∧ ∀ c ∈ m, c.1 < n

theorem Memory.within.write {n a : Nat} {m : Memory} (h : m.within n) (ha : a < n) (b : Byte) :
    Memory.within n (memWrite m a b) := by
  obtain ⟨wf, below⟩ := h
  exact ⟨memWrite_wf a b wf, memWrite_below ha below⟩

theorem State.memoryWf_iff {s : State} :
    s.memoryWf ↔ s.report.within 8 ∧ s.raw.within 32 ∧ s.cstate.within 8 := Iff.rfl

theorem SameOutsidePort.memoryWf {s t : State} (same : SameOutsidePort s t) (h : s.memoryWf) : t.memoryWf := by
  rw [State.memoryWf_iff, same.report, same.raw, same.cstate]
  exact h

theorem lineStep_memoryWf (l : Line) {s : State} (h : s.memoryWf) : (lineStep l s).1.memoryWf := by
  obtain ⟨report, raw, cstate⟩ := State.memoryWf_iff.mp h
  cases l
  case setReportByte i b => exact ⟨report.write i.isLt b, raw, cstate⟩
  case setRawByte k b => exact ⟨report, raw.write k.isLt b, cstate⟩
  case setCStateByte i b => exact ⟨report, raw, cstate.write i.isLt b⟩
  case commit => exact (portCommit_same s).memoryWf h
  case commitClr => exact (portCommitClr_same s).memoryWf h
  case fifoWrite b => exact (portFifoWrite_same b s).memoryWf h
  case intakeByte => exact (portFifoRead_same s).memoryWf h
  case sample bytes => cases bytes <;> exact h
  all_goals exact h

theorem memoryWf_keptByParts : KeptByParts State.memoryWf where
  line l _ _ h := lineStep_memoryWf l h
  entry _ _ _ h := h
  exit _ h := h
  host ports h := by rw [ports]; exact h
  isrPc _ h := h
  mainPc _ h := h
  req _ h := h
  script _ h := h
  draws _ h := h
  ret _ h := h

/-- Settles O50: every part of a step keeps the memories in form and inside their spaces. -/
theorem memoryWfKept : Obligations.MemoryWfKept :=
  fun _ _ h hstep => memoryWf_keptByParts.step_kept hstep h

/-! ## The context (R371, R374) -/

section
variable {s t : State}

/-- What EITHER settles for DEV_ISR it allows (R373). -/
theorem State.devFirst_mono {dev dev' : Bool} (h : dev = true → dev' = true) (first : s.devFirst dev = true) :
    s.devFirst dev' = true := by
  simp only [State.devFirst, Bool.and_eq_true, Bool.or_eq_true] at first ⊢
  refine first.imp_right (Or.imp_right ?_)
  cases s.params.isrOrder
  · exact id
  · exact id
  · exact h

/-- Where DEV_ISR does not come first, EP_ISR's source is pending and it may be entered (R373). -/
theorem State.epFirst_of_not_devFirst {dev : Bool} (notFirst : s.devFirst dev = false)
    (pending : s.devPending = true ∨ s.epPending = true) : s.epPending = true ∧ s.devFirst false = false := by
  refine ⟨?_, Bool.eq_false_of_not_eq_true fun first => ?_⟩
  · by_contra noEp
    rw [State.devFirst_of_not_epPending _ (Bool.eq_false_of_not_eq_true noEp)] at notFirst
    exact pending.elim (Bool.eq_false_iff.mp notFirst) noEp
  · exact Bool.eq_false_iff.mp notFirst (State.devFirst_mono (dev := false) nofun first)

theorem State.canEnter_iff {c : Ctx} :
    s.canEnter c = true ↔ s.ctx = .main ∧ s.ie = true ∧ s.halted = false ∧
      (c = .devIsr ∧ s.devFirst true = true ∨ c = .epIsr ∧ s.epPending = true ∧ s.devFirst false = false) := by
  cases c <;> simp [State.canEnter, and_assoc]

/-- However EITHER is settled, the handler entered with a source pending may be entered. -/
theorem State.canEnter_enters_of_pending (hm : s.ctx = .main) (on : s.ie = true) (running : s.halted = false)
    (pending : s.devPending = true ∨ s.epPending = true) (dev : Bool) : s.canEnter (s.enters dev) = true := by
  refine State.canEnter_iff.mpr ⟨hm, on, running, ?_⟩
  unfold State.enters
  split
  case isTrue first => exact .inl ⟨rfl, State.devFirst_mono (fun _ => rfl) first⟩
  case isFalse notFirst =>
    exact .inr ⟨rfl, State.epFirst_of_not_devFirst (Bool.eq_false_of_not_eq_true notFirst) pending⟩

theorem State.mayEnter_of_pending (hm : s.ctx = .main) (on : s.ie = true) (running : s.halted = false)
    (pending : s.devPending = true ∨ s.epPending = true) : s.mayEnter = true := by
  have enter := State.canEnter_enters_of_pending hm on running pending true
  unfold State.enters at enter
  split at enter
  · exact Bool.or_eq_true_iff.mpr (.inl enter)
  · exact Bool.or_eq_true_iff.mpr (.inr enter)

theorem State.pending_of_canEnter {c : Ctx} (h : s.canEnter c = true) : s.devPending = true ∨ s.epPending = true := by
  obtain ⟨_, _, _, ⟨_, first⟩ | ⟨_, ep, _⟩⟩ := State.canEnter_iff.mp h
  · exact .inl (Bool.and_eq_true_iff.mp first).1
  · exact .inr ep

/-- The handler that is entered may be entered (R371, R373). -/
theorem State.canEnter_enters (h : s.mayEnter = true) (dev : Bool) : s.canEnter (s.enters dev) = true := by
  have some : ∃ c, s.canEnter c = true := (Bool.or_eq_true_iff.mp h).elim (⟨_, ·⟩) (⟨_, ·⟩)
  obtain ⟨c, enter⟩ := some
  obtain ⟨hm, on, running, _⟩ := State.canEnter_iff.mp enter
  exact State.canEnter_enters_of_pending hm on running (State.pending_of_canEnter enter) dev

/-- The CPU's own step that changes the context is an entry or a return. -/
theorem cpuStep_ctx_cases (h : (cpuStep s).ctx ≠ s.ctx) :
    (s.ctx = .main ∧ ∃ c, s.canEnter c = true ∧ cpuStep s = interruptEntry c { s with draws := s.draws + 1 }) ∨
    (s.ctx ≠ .main ∧ s.isrPc = [] ∧ s.halted = false ∧ cpuStep s = returnFromInterrupt s) := by
  rcases cpuStep_cases s with ⟨_, heq⟩ | ⟨running, hm, heq⟩ | ⟨_, hm, enter, heq⟩ | ⟨_, _, _, heq⟩ | ⟨_, _, _, heq⟩
  · exact absurd (congrArg State.ctx heq) h
  · rcases isrStep_cases s with ⟨hpc, hret⟩ | hheld | ⟨l, ls, _, _, hline⟩
    · exact .inr ⟨hm, hpc, running, heq.trans hret⟩
    · exact absurd (congrArg State.ctx (heq.trans hheld)) h
    · exact absurd ((congrArg State.ctx (heq.trans hline)).trans (lineStep_frame l s).ctx) h
  · exact .inl ⟨hm, _, State.canEnter_enters enter _, heq⟩
  · exact absurd ((congrArg State.ctx heq).trans (mainStep_ctx _)) h
  · exact absurd ((congrArg State.ctx heq).trans (mainStep_ctx s)) h

end

/-- Settles O45: no HOST action writes the context, and the CPU's own step writes it at an entry or a return only. -/
theorem contextChanges : Obligations.ContextChanges := by
  intro s t hs hstep changed
  obtain ⟨entries, _, rfl | ⟨i, hi, hexec⟩⟩ := hostScript_step_cases hs hstep
  · rcases cpuStep_ctx_cases (s := { s with script := entries }) changed with ⟨hm, c, enter, heq⟩ | ⟨hm, hpc, running,
      heq⟩
    · rw [heq]
      exact .inl ⟨hm, enter, rfl⟩
    · rw [heq]
      exact .inr ⟨hm, hpc, running, rfl⟩
  · obtain ⟨_, ctx, _⟩ := (exec_hostAction_onlyPort hi hexec).unchanged
    exact absurd ctx changed

end Sys2Proof.Machine
end

section
/-! PROOF. The two agents of a step (00_scope.md R5): what the schedule makes due and what it leaves to the CPU, what a
HOST action may write (40_port.md section 2) and when it is none, the interrupt boundary (60_exceptions.md R371, R374),
and the halt, after which only the HOST acts (00_scope.md R7(d), R375). -/

namespace Sys2Proof.Machine

open Sys2Proof

/-! ## What is due (log 3, log 17) -/

section
variable {s : State} {entry : ScriptEntry} {entries : List ScriptEntry} {i : Instr} {tail : List Byte}

theorem fetch_of_due (hs : s.script = entry :: entries) (due : entry.due s) : fetch s = fetchDue entry entries s := by
  rcases due with now | ⟨waits, quiet⟩
  · simp only [fetch, hs, now]
  · simp only [fetch, hs, waits, quiet, if_true]

theorem step_of_due (hs : s.script = entry :: entries) (due : entry.due s)
    (decodes : decodeBytes entry.format entry.bytes = .ok (i, tail)) (runs : runsNow i s = true) :
    step s = exec i { s with script := entries } := by
  simp [step, fetch_of_due hs due, fetchDue, decodes, runs]

theorem step_of_waitingContext (hs : s.script = entry :: entries) (due : entry.due s)
    (decodes : decodeBytes entry.format entry.bytes = .ok (i, tail)) (waits : runsNow i s = false) :
    step s = .next (cpuStep s) := by
  simp [step, fetch_of_due hs due, fetchDue, decodes, waits]

theorem step_of_undecodable {e : DecodeError} (hs : s.script = entry :: entries) (due : entry.due s)
    (bad : decodeBytes entry.format entry.bytes = .error e) :
    step s = .refused (.undecodable entry.format entry.bytes) := by
  simp [step, fetch_of_due hs due, fetchDue, bad]

/-- In the context it belongs to an operation runs (log 17). -/
theorem runsNow_of_home (hc : s.ctx = (homeCtx i).getD s.ctx) : runsNow i s = true := by
  unfold runsNow
  cases home : homeCtx i with
  | none => simp
  | some c =>
    rw [home, Option.getD_some] at hc
    simp [hc]

/-- A table word decodes to what its placed bytes decode to. -/
theorem decodeBytes_of_tableWord {nbits w : Nat} (h : decodeTableWord nbits w = some i) :
    ∃ tail, decodeBytes (tableFormat nbits) (tableBytes nbits w) = .ok (i, tail) := by
  unfold decodeTableWord at h
  split at h
  case h_1 j tail decodes => exact ⟨tail, Option.some.inj h ▸ decodes⟩
  case h_2 => cases h

theorem step_withFetchWord (s : State) {nbits w : Nat} (h : decodeTableWord nbits w = some i) :
    step (s.withFetchWord nbits w) = exec i { s with ctx := (homeCtx i).getD s.ctx } := by
  have placed : s.withFetchWord nbits w = { s with
      script := { wait := .steps 0, format := tableFormat nbits, bytes := tableBytes nbits w } :: s.script
      ctx := (homeCtx i).getD s.ctx } := by simp only [State.withFetchWord, placeWord, h]
  obtain ⟨tail, decodes⟩ := decodeBytes_of_tableWord h
  have home : (s.withFetchWord nbits w).ctx = (homeCtx i).getD (s.withFetchWord nbits w).ctx := by
    rw [placed]; cases homeCtx i <;> rfl
  rw [step_of_due (i := i) (congrArg State.script placed) (.inl rfl) decodes (runsNow_of_home home), placed]

end

/-- Settles O5: the schedule's first entry is due, or waits, or is none. -/
theorem stepRunsDecoded : Obligations.StepRunsDecoded := by
  refine ⟨fun _ _ _ _ _ => step_of_due, fun s _ _ _ => step_withFetchWord s, fun _ => step_of_script_nil,
    fun s entry entries n hs counts => ?counts, fun s entry entries hs waits busy => ?busy,
    fun _ _ _ _ _ => step_of_waitingContext, fun _ _ _ _ => step_of_undecodable⟩
  case counts => simp only [step, fetch, hs, counts]
  case busy => simp [step, fetch, hs, waits, busy]

/-! ## Host actions (40_port.md R170 to R177) -/

/-- The host's trace only grows (10_state.md R50). -/
def SeenGrows (s t : State) : Prop := s.hostRx <+: t.hostRx

theorem SeenGrows.of_eq {s t : State} (h : t.hostRx = s.hostRx) : SeenGrows s t := by
  rw [SeenGrows, h]

theorem hostSees_grows (e : EpNum) (o : HostOutcome) (s : State) : SeenGrows s (hostSees e o s) :=
  List.prefix_append _ _

theorem hostSetup_grows (a : DevAddr) (p : List Byte) (s : State) : SeenGrows s (hostSetup a p s) := by
  unfold hostSetup
  repeat' split
  all_goals exact hostSees_grows _ _ _

theorem hostIn_grows (a : DevAddr) (e : EpNum) (s : State) : SeenGrows s (hostIn a e s) := by
  unfold hostIn
  repeat' split
  all_goals exact hostSees_grows _ _ _

theorem hostOut_grows (a : DevAddr) (e : EpNum) (d : List Byte) (s : State) : SeenGrows s (hostOut a e d s) := by
  unfold hostOut
  repeat' split
  all_goals exact hostSees_grows _ _ _

theorem SeenGrows.ifAttached {s t : State} (h : SeenGrows s t) : SeenGrows s (if s.attached then t else s) := by
  split
  · exact h
  · exact .of_eq rfl

theorem exec_hostAction_grows {i : Instr} {s t : State} (hi : isHostAction i = true) (h : exec i s = .next t) :
    SeenGrows s t := by
  cases i with
  | hBusReset | hSof | hDeveventOther =>
    obtain rfl := Host.Outcome.next.inj h
    exact .ifAttached (.of_eq rfl)
  | hIn a e =>
    obtain rfl := Host.Outcome.next.inj h
    exact (hostIn_grows a e s).ifAttached
  | hSetup a p =>
    simp only [exec, execHSetup] at h
    split at h
    · cases h; exact .of_eq rfl
    split at h
    · cases h
    · cases h; exact hostSetup_grows a p s
  | hOut a e d =>
    simp only [exec, execHOut] at h
    split at h
    · cases h; exact .of_eq rfl
    split at h
    · cases h
    · cases h; exact hostOut_grows a e d s
  | _ => cases hi

/-- Settles O15: what a HOST action may change is port state and the host's trace, which only grows. -/
theorem hostNeverWritesBlock : Obligations.HostNeverWritesBlock := by
  intro i s t hi hexec
  have ports : OnlyPortChanges s t := exec_hostAction_onlyPort hi hexec
  obtain ⟨seen, grown⟩ := exec_hostAction_grows hi hexec
  refine ⟨t.devAddr, t.adden, t.eps, t.frame, t.eorst, t.sof, t.other, seen, ?_⟩
  rw [grown]
  exact ports

theorem exec_hostAction_unattached {i : Instr} {s : State} (hi : isHostAction i = true) (off : s.attached = false) :
    exec i s = .next s := by
  cases i with
  | hBusReset => simp [exec, execHBusReset, off]
  | hSof => simp [exec, execHSof, off]
  | hDeveventOther => simp [exec, execHDeveventOther, off]
  | hIn a e => simp [exec, execHIn, off]
  | hSetup a p => simp [exec, execHSetup, off]
  | hOut a e d => simp [exec, execHOut, off]
  | _ => cases hi

theorem setupAllowed_false_of {s : State} {p : List Byte}
    (h : (s.ce.phase ≠ .idle ∧ s.ce.phase ≠ .halted) ∨ (s.ep 0).rxstp = true ∨ p.length ≠ 8) :
    (!s.setupAllowed || p.length != 8) = true := by
  rw [Bool.or_eq_true, Bool.not_eq_true', ← Bool.not_eq_true, State.setupAllowed_iff, bne_iff_ne]
  rcases h with ⟨notIdle, notHalted⟩ | unread | length
  · exact .inl fun ⟨phase, _⟩ => phase.elim notIdle notHalted
  · exact .inl fun ⟨_, read⟩ => Bool.eq_false_iff.mp read unread
  · exact .inr length

/-- Settles O14: each guard, by the name it stops with. -/
theorem stopsByName : Obligations.StopsByName := by
  refine ⟨fun _ _ => exec_hostAction_unattached, fun a p s attached excluded => ?setup,
    fun a e d s attached reached on long => ?out, fun raw i s short => ?group⟩
  case setup => simp [exec, execHSetup, attached, setupAllowed_false_of excluded]
  case out =>
    have tooLong : outTooLong a e d s = true := by simp [outTooLong, State.answersTo, reached, on, long]
    simp [exec, execHOut, attached, tooLong]
  case group => exact if_neg (Nat.not_le.mpr short)

/-! ## The interrupt boundary (R371, R374) -/

/-- Settles O43: a pending source lets a handler be entered, and which of the two steps is taken is free. -/
theorem interruptEntryAndReturn : Obligations.InterruptEntryAndReturn := by
  refine ⟨fun s script hm on running pending => ?boundary, fun s script handler ended running => ?ret⟩
  case boundary =>
    rw [step_of_script_nil script]
    have may := State.mayEnter_of_pending hm on running pending
    rcases cpuStep_cases s with ⟨halted, _⟩ | ⟨_, notMain, _⟩ | ⟨_, _, _, heq⟩ | ⟨_, _, _, heq⟩ | ⟨_, _, never, _⟩
    · cases running.symm.trans halted
    · exact absurd hm notMain
    · exact .inl ⟨_, State.canEnter_enters may _, congrArg _ heq⟩
    · exact .inr (congrArg _ heq)
    · cases may.symm.trans never
  case ret =>
    rw [step_of_script_nil script]
    rcases cpuStep_cases s with ⟨halted, _⟩ | ⟨_, _, heq⟩ | ⟨_, hm, _⟩ | ⟨_, hm, _⟩ | ⟨_, hm, _⟩
    · cases running.symm.trans halted
    · rw [heq, isrStep, ended, returnFromInterrupt]
    all_goals exact absurd hm handler

/-! ## After the halt (R7(d), R375) -/

section
variable {s : State}

theorem cpuOp_halted (halted : s.halted = true) (f : State → State) : cpuOp f s = s := if_pos halted

theorem takeInterrupt_halted (halted : s.halted = true) (c : Ctx) : takeInterrupt c s = s := by
  rcases takeInterrupt_cases c s with ⟨_, heq⟩ | ⟨enter, _⟩
  · exact heq
  · cases halted.symm.trans (State.halted_of_canEnter enter)

theorem cpuStep_halted (halted : s.halted = true) : cpuStep s = s := if_pos halted

theorem exec_halted {i : Instr} (halted : s.halted = true) (wf : i.wf = true) (cpu : isHostAction i = false) :
    exec i s = .next s := by
  cases i
  case hBusReset | hSof | hSetup | hIn | hOut | hDeveventOther => cases cpu
  case devIsr | epIsr => exact congrArg _ (takeInterrupt_halted halted _)
  case eorstHandler | autoTick | autoWrite | setupIntake | ctrlFifoWrite | send | reportUpdate | decode | pollCycle =>
    exact congrArg _ (perform_halted halted)
  case decodeGroup raw k =>
    obtain ⟨length, inside⟩ : raw.length = 32 ∧ k < 8 := by simpa [Instr.wf] using wf
    exact (if_pos (by omega)).trans (congrArg _ (cpuOp_halted halted _))
  all_goals exact congrArg _ (cpuOp_halted halted _)

end

/-- Settles O46: every CPU operation asks for a running machine, so after the halt a step is none or the HOST's. -/
theorem haltedForGood : Obligations.HaltedForGood := by
  refine ⟨fun _ _ => exec_halted, fun s halted script => ?idle, fun s t halted hs hstep => ?run⟩
  case idle => rw [step_of_script_nil script, cpuStep_halted halted]
  case run =>
    obtain ⟨entries, _, rfl | ⟨i, hi, hexec⟩⟩ := hostScript_step_cases hs hstep
    · rw [cpuStep_halted (s := { s with script := entries }) halted]
      exact ⟨s.devAddr, s.adden, s.eps, s.frame, s.eorst, s.sof, s.other, s.hostRx, entries, rfl⟩
    · have ports : OnlyPortChanges _ t := exec_hostAction_onlyPort hi hexec
      exact ⟨_, _, _, _, _, _, _, _, entries, ports⟩

end Sys2Proof.Machine
end

section
/-! PROOF. REMAP (44_decoder.md R336): the answer is `remapOf`, read byte by byte: the fixed joy_y case, the affine
transform of an axis byte, and the decision trees of a button byte. -/

namespace Sys2Proof.Machine

open Sys2Proof

/-- The byte subtraction is the one modulo 256. -/
theorem joyY_eq_ofInt (b : Byte) : 127 - b = BitVec.ofInt 8 (127 - (b.toNat : Int)) := by
  refine BitVec.eq_of_toNat_eq ?_
  have constant : (127 : Byte).toNat = 127 := rfl
  have bound := b.isLt
  rw [BitVec.toNat_sub, BitVec.toNat_ofInt, constant]
  omega

theorem remapOf_getD (p : Params) (c : List Byte) (k : Fin 8) : (remapOf p c).getD k.val 0 = remapOut p c k := by
  fin_cases k <;> rfl

theorem remapOut_of_ne {p : Params} {k : Fin 8} (h : k ≠ p.joyYOut) (c : List Byte) :
    remapOut p c k = remapByte p c k := if_neg h

theorem remapByte_axis (p : Params) (c : List Byte) {k : Nat} (axis : 2 ≤ k) (hk : k < 8) :
    ∃ m : AxisMap, m ∈ [p.axes.x, p.axes.y, p.axes.z, p.axes.rx, p.axes.ry, p.axes.rz][k - 2]? ∧
      remapByte p c ⟨k, hk⟩ = AxisMap.apply m c := by
  interval_cases k <;> exact ⟨_, rfl, rfl⟩

theorem AxisMap.apply_toNat (m : AxisMap) (c : List Byte) :
    (AxisMap.apply m c).toNat = (m.scale.toNat * (c.getD m.src.val 0).toNat + m.offset.toNat) % 256 := by
  simp [AxisMap.apply, BitVec.toNat_add, BitVec.toNat_mul]

theorem remapByte_button (p : Params) (c : List Byte) {j k : Nat} (hj : j < 2) (hk : k < 8) :
    ∃ tree : BitTree, tree ∈ (if j = 0 then p.buttons.byte0 else p.buttons.byte1)[k]? ∧
      (remapByte p c ⟨j, by omega⟩).getLsbD k = BitTree.eval tree c := by
  interval_cases j
  · exact ⟨p.buttons.byte0[k], by simp [hk], buttonByte_getLsbD p.buttons.byte0 c ⟨k, hk⟩⟩
  · exact ⟨p.buttons.byte1[k], by simp [hk], buttonByte_getLsbD p.buttons.byte1 c ⟨k, hk⟩⟩

/-- Settles O20: the answer is the function `remapOf`, byte by byte. -/
theorem decoderRemap : Obligations.DecoderRemap := by
  intro c p _
  refine ⟨remapOf p c, fun s hp running => next_cpuOp running (by rw [hp]), rfl, ?joyY, fun k axis hk other => ?axis,
    fun j k hj hk other => ?button⟩
  case joyY =>
    rw [remapOf_getD, remapOut, if_pos rfl]
    exact joyY_eq_ofInt _
  case axis =>
    obtain ⟨m, place, value⟩ := remapByte_axis p c axis hk
    have byte := remapOf_getD p c ⟨k, hk⟩
    rw [remapOut_of_ne (fun h => other (congrArg Fin.val h)), value] at byte
    exact ⟨m, place, (congrArg BitVec.toNat byte).trans (AxisMap.apply_toNat m c)⟩
  case button =>
    obtain ⟨tree, place, value⟩ := remapByte_button p c hj hk
    have byte := remapOf_getD p c ⟨j, by omega⟩
    rw [remapOut_of_ne (fun h => other (congrArg Fin.val h))] at byte
    exact ⟨tree, place, (congrArg (·.getLsbD k) byte).trans value⟩

end Sys2Proof.Machine
end

section
/-! PROOF. The idle count (43_report.md R290, R291). Only SET_IDLE's and AUTO_TICK's lines write the count or the rate,
and each of them stands at the front of a position of its own shape (`State.idleAt`). Every other line leaves both, and
puts lines in front in which SET_IDLE's two writes stay paired (`lineStep_pairs`). -/

namespace Sys2Proof.Machine

open Sys2Proof

/-! ## Positions with SET_IDLE's writes paired (42_control.md R236) -/

/-- The lines that write the count or the rate, or carry a value of the count. -/
def idleLine : Line → Bool
  | .setIdleRate _ | .setIdleCounter _ | .setTickCount _ | .tickCompare | .tickCompareRate _ => true
  | _ => false

theorem idleWritesPaired_cons {l : Line} (plain : idleLine l = false) (ls : List Line) :
    idleWritesPaired (l :: ls) = idleWritesPaired ls := by
  cases l
  case setIdleRate | setIdleCounter | setTickCount | tickCompare | tickCompareRate => cases plain
  all_goals rfl

theorem idleWritesPaired_setIdleRate {v : Byte} {ls : List Line} (h : idleWritesPaired (.setIdleRate v :: ls) = true) :
    ∃ rest, ls = .setIdleCounter 0 :: rest ∧ idleWritesPaired rest = true := by
  unfold idleWritesPaired at h
  split at h
  case h_1 v rest =>
    obtain ⟨zero, paired⟩ := Bool.and_eq_true_iff.mp h
    exact ⟨rest, by rw [eq_of_beq zero], paired⟩
  case h_2 => cases h

theorem idleWritesPaired_setIdleCounter {v : Byte} {ls : List Line}
    (h : idleWritesPaired (.setIdleCounter v :: ls) = true) : v = 0 ∧ idleWritesPaired ls = true := by
  simpa [idleWritesPaired] using h

theorem idleWritesPaired_append {ls ls' : List Line} (h : idleWritesPaired ls = true)
    (h' : idleWritesPaired ls' = true) : idleWritesPaired (ls ++ ls') = true := by
  fun_induction idleWritesPaired ls with
  | case1 => exact h'
  | case2 v v' ls ih | case4 v' ls ih =>
    obtain ⟨zero, paired⟩ := Bool.and_eq_true_iff.mp h
    exact Bool.and_eq_true_iff.mpr ⟨zero, ih paired⟩
  | case3 | case5 | case6 => cases h
  | case7 l ls noRate noCount noTick noCompare ih =>
    cases l
    case setIdleRate v => exact absurd rfl (noRate v)
    case setIdleCounter v => exact absurd rfl (noCount v)
    case setTickCount v => exact absurd rfl (noTick v)
    case tickCompareRate v => exact absurd rfl (noCompare v)
    all_goals exact ih h

theorem idleWritesPaired_of_plain {ls : List Line} (plain : (ls.all fun l => !idleLine l) = true) :
    idleWritesPaired ls = true := by
  induction ls with
  | nil => rfl
  | cons l ls ih =>
    rw [List.all_cons, Bool.and_eq_true, Bool.not_eq_true'] at plain
    obtain ⟨here, rest⟩ := plain
    rw [idleWritesPaired_cons here, ih rest]

/-- With the writes paired, every write of the count is of 0. -/
theorem eq_zero_of_paired {ls : List Line} {v : Byte} (h : idleWritesPaired ls = true)
    (mem : .setIdleCounter v ∈ ls) : v = 0 := by
  fun_induction idleWritesPaired ls with
  | case1 => cases mem
  | case2 v' w ls ih =>
    obtain ⟨zero, paired⟩ := Bool.and_eq_true_iff.mp h
    rcases List.mem_cons.mp mem with other | mem
    · cases other
    rcases List.mem_cons.mp mem with same | mem
    · cases same; exact eq_of_beq zero
    · exact ih paired mem
  | case4 w ls ih =>
    obtain ⟨zero, paired⟩ := Bool.and_eq_true_iff.mp h
    rcases List.mem_cons.mp mem with same | mem
    · cases same; exact eq_of_beq zero
    · exact ih paired mem
  | case3 | case5 | case6 => cases h
  | case7 l ls _ noCount _ _ ih =>
    rcases List.mem_cons.mp mem with same | mem
    · exact absurd same.symm (noCount v)
    · exact ih h mem

theorem configureCode_paired (p : Params) (e : EpNum) : idleWritesPaired (configureCode p e) = true := by
  unfold configureCode
  repeat' split
  all_goals rfl

theorem handlerBody_paired (p : Params) (r : Request) (got : List Byte) :
    idleWritesPaired (handlerBody p r got) = true := by
  cases r
  case setConfiguration =>
    have entry := configureCode_paired p
    exact idleWritesPaired_append (idleWritesPaired_append (idleWritesPaired_append (entry 1) (entry 2)) (entry 3))
      (entry 4)
  case clearFeature => simp only [handlerBody, clearFeatureCode]; split <;> rfl
  case getDescriptor => simp only [handlerBody, getDescriptorCode]; split <;> rfl
  all_goals rfl

theorem handlerFrom_paired (p : Params) (r : Request) (got : List Byte) :
    idleWritesPaired (handlerFrom p r got) = true := by
  unfold handlerFrom
  split
  · rfl
  · exact handlerBody_paired p r got

theorem dispatchCode_paired (p : Params) (r : Request) : idleWritesPaired (dispatchCode p r) = true := by
  unfold dispatchCode
  split
  · exact handlerFrom_paired p r []
  · exact idleWritesPaired_append (handlerFrom_paired p r []) rfl

theorem fillBankCode_paired (n : Nat) : idleWritesPaired (fillBankCode n) = true :=
  idleWritesPaired_of_plain (by simp [fillBankCode, idleLine])

/-- AUTO_TICK's read of the count goes on with the write that carries it; every other line leads to paired writes. -/
theorem lineStep_pairs {l : Line} (h : l ≠ .tickCount ∧ l ≠ .tickCompare) (s : State) :
    idleWritesPaired (lineStep l s).2 = true := by
  cases l
  case tickCount => exact absurd rfl h.1
  case tickCompare => exact absurd rfl h.2
  case dispatchOn => exact dispatchCode_paired _ _
  case operand => exact handlerFrom_paired _ _ _
  case cwFill => exact fillBankCode_paired _
  case descLength => simp only [lineStep, sendDescriptorCode]; split <;> rfl
  case cwSource => simp only [lineStep, sourceCode]; split <;> rfl
  case decodeByte => simp only [lineStep, decodeFrom]; split <;> rfl
  case remapReport => simp only [lineStep, remapFrom]; split <;> rfl
  case sendPoll | sendPollAgain => simp only [lineStep, sendPollNext]; split <;> rfl
  case readDevint => simp only [lineStep, devIsrNext]; split <;> split <;> rfl
  case tickConfiguration | tickRate | tickDivided | tickCompareRate | autoStatus | setupStatus | cwWait | cwLoop | delay
      | syncCheck | sendEntry | sendConfiguration | sendExpired => simp only [lineStep]; split <;> rfl
  case sample raw => cases raw <;> rfl
  all_goals rfl

/-! ## The count and the rate (R291) -/

section
variable {s t : State} {l : Line} {ls : List Line}

/-- The count is below the rate, where the rate is not 0. -/
def State.idleBelow (s : State) : Prop := s.idleRate = 0 ∨ s.idleCounter.toNat < s.idleRate.toNat

/-- The count and the rate are the same in the two states. -/
structure SameIdle (s t : State) : Prop where
  idleRate : t.idleRate = s.idleRate
  idleCounter : t.idleCounter = s.idleCounter

theorem SameOutsidePort.sameIdle (h : SameOutsidePort s t) : SameIdle s t := ⟨h.idleRate, h.idleCounter⟩

theorem lineStep_sameIdle (plain : idleLine l = false) (s : State) : SameIdle s (lineStep l s).1 := by
  cases l
  case commit => exact (portCommit_same s).sameIdle
  case commitClr => exact (portCommitClr_same s).sameIdle
  case fifoWrite b => exact (portFifoWrite_same b s).sameIdle
  case intakeByte => exact (portFifoRead_same s).sameIdle
  case sample raw => cases raw <;> exact ⟨rfl, rfl⟩
  case setIdleRate | setIdleCounter | setTickCount | tickCompare | tickCompareRate => cases plain
  all_goals exact ⟨rfl, rfl⟩

theorem SameIdle.idleBelow (same : SameIdle s t) (h : s.idleBelow) : t.idleBelow := by
  rwa [State.idleBelow, same.idleRate, same.idleCounter]

/-- A count of 0 is below every rate that is not 0. -/
theorem idleBelow_of_zero (zero : s.idleCounter = 0) : s.idleBelow := by
  by_cases rate : s.idleRate = 0
  · exact .inl rate
  · rw [State.idleBelow, zero]
    exact .inr (by bv_omega)

/-! ## Positions (`State.idleAt`) -/

theorem State.idleAt_nil : s.idleAt [] ↔ s.idleBelow := by simp [State.idleAt, idleWritesPaired, State.idleBelow]

theorem State.idleAt_plain (plain : idleLine l = false) :
    s.idleAt (l :: ls) ↔ idleWritesPaired ls = true ∧ s.idleBelow := by
  rw [← idleWritesPaired_cons plain]
  cases l
  case setIdleRate | setIdleCounter | setTickCount | tickCompare | tickCompareRate => cases plain
  all_goals rfl

/-- Paired writes are all a position asks where the count is below the rate. -/
theorem State.idleAt_of_paired (paired : idleWritesPaired ls = true) (below : s.idleBelow) : s.idleAt ls := by
  cases ls with
  | nil => exact State.idleAt_nil.mpr below
  | cons l ls =>
    cases l
    case setTickCount | tickCompareRate => cases paired
    case tickCompare => exact ⟨paired, below.imp_right Nat.le_of_lt⟩
    case setIdleCounter v => exact idleWritesPaired_setIdleCounter paired
    all_goals exact ⟨paired, below⟩

/-- The handler's next line leaves the position as the count and the rate want it. -/
theorem lineStep_idleAt (h : s.idleAt (l :: ls)) : (lineStep l s).1.idleAt ((lineStep l s).2 ++ ls) := by
  by_cases plain : idleLine l = false
  · obtain ⟨paired, below⟩ := (State.idleAt_plain plain).mp h
    have below' := (lineStep_sameIdle plain s).idleBelow below
    by_cases counts : l = .tickCount
    · subst counts
      exact ⟨⟨ls, rfl, paired⟩, below.imp_right fun lt => ⟨rfl, lt⟩⟩
    · have ne : l ≠ .tickCompare := by rintro rfl; cases plain
      exact State.idleAt_of_paired (idleWritesPaired_append (lineStep_pairs ⟨counts, ne⟩ s) paired) below'
  · cases l
    case setIdleRate v =>
      obtain ⟨rest, rfl, paired⟩ := idleWritesPaired_setIdleRate h.1
      exact ⟨rfl, paired⟩
    case setIdleCounter v =>
      obtain ⟨zero, paired⟩ := h
      exact State.idleAt_of_paired paired (idleBelow_of_zero zero)
    case setTickCount v =>
      obtain ⟨⟨rest, rfl, paired⟩, below⟩ := h
      refine ⟨paired, below.imp_right fun ⟨next, lt⟩ => ?_⟩
      have bound := s.idleRate.isLt
      simp only [lineStep, next]
      bv_omega
    case tickCompare =>
      obtain ⟨paired, below⟩ := h
      exact ⟨paired, below.imp_right fun le => ⟨rfl, le⟩⟩
    case tickCompareRate v =>
      obtain ⟨paired, below⟩ := h
      simp only [lineStep]
      split
      case isTrue => exact ⟨rfl, idleWritesPaired_append (ls := autoWriteCode) rfl paired⟩
      case isFalse notYet =>
        refine State.idleAt_of_paired paired (below.imp_right fun ⟨carried, le⟩ => ?_)
        subst carried
        exact Nat.lt_of_le_of_ne le fun same => notYet (BitVec.eq_of_toNat_eq same)
    all_goals exact absurd rfl plain

/-! ## The invariant, context by context -/

/-- The part of `State.idleInv` about MAIN's position: its own lines, and every write of the count is of 0. -/
def idleMainLines (pc : List Line) : Prop :=
  (∀ l ∈ pc, mainLine l = true) ∧ ∀ v, .setIdleCounter v ∈ pc → v = 0

theorem State.idleInv_main (hm : s.ctx = .main) : s.idleInv ↔ idleMainLines s.mainPc ∧ s.idleBelow := by
  simp [State.idleInv, idleMainLines, hm, State.idleAt_nil, and_assoc]

theorem State.idleInv_handler (hm : s.ctx ≠ .main) :
    s.idleInv ↔ idleMainLines s.mainPc ∧ (s.ctx = .devIsr → ∀ l ∈ s.isrPc, devLine l = true) ∧ s.idleAt s.isrPc := by
  simp [State.idleInv, idleMainLines, hm, and_assoc]

theorem mainCode_idleMainLines (h : idleMainLines s.mainPc) : idleMainLines (mainCode s) := by
  unfold mainCode
  split
  · exact ⟨List.all_eq_true.mp rfl, by simp [pollCycleCode]⟩
  · exact h

/-- Of MAIN's lines only SEND's reset writes the count (R293). -/
theorem mainLine_plain (own : mainLine l = true) : idleLine l = false ∨ ∃ v, l = .setIdleCounter v := by
  cases l
  case setIdleCounter v => exact .inr ⟨v, rfl⟩
  case setIdleRate | setTickCount | tickCompare | tickCompareRate => cases own
  all_goals exact .inl rfl

theorem mainStep_idleInv (hm : s.ctx = .main) (h : s.idleInv) : (mainStep s).idleInv := by
  rcases mainStep_cases s with heq | ⟨l, ls, hcode, _, heq⟩ <;> rw [heq]
  · exact h
  · obtain ⟨main, below⟩ := (State.idleInv_main hm).mp h
    have code := mainCode_idleMainLines main
    rw [hcode] at code
    obtain ⟨own, zero⟩ := code
    obtain ⟨ownLine, ownRest⟩ := List.forall_mem_cons.mp own
    have pairs : idleWritesPaired (lineStep l s).2 = true :=
      lineStep_pairs ⟨(by rintro rfl; cases ownLine), (by rintro rfl; cases ownLine)⟩ s
    refine (State.idleInv_main ?ctx).mpr ⟨⟨?own, fun v mem => ?zero⟩, ?below⟩
    case ctx => exact (lineStep_frame l s).ctx.trans hm
    case own => exact List.forall_mem_append.mpr ⟨List.all_eq_true.mp (mainLine_expands ownLine s), ownRest⟩
    case zero =>
      rcases List.mem_append.mp mem with new | old
      · exact eq_zero_of_paired pairs new
      · exact zero v (List.mem_cons_of_mem _ old)
    case below =>
      rcases mainLine_plain ownLine with plain | ⟨v, rfl⟩
      · exact (lineStep_sameIdle plain s).idleBelow below
      · exact idleBelow_of_zero (zero v List.mem_cons_self)

theorem isrStep_idleInv (hm : s.ctx ≠ .main) (h : s.idleInv) : (isrStep s).idleInv := by
  obtain ⟨main, dev, place⟩ := (State.idleInv_handler hm).mp h
  rcases isrStep_cases s with ⟨hpc, heq⟩ | heq | ⟨l, ls, hpc, _, heq⟩ <;> rw [heq]
  · rw [hpc] at place
    exact (State.idleInv_main rfl).mpr ⟨main, State.idleAt_nil.mp place⟩
  · exact h
  · have frame := lineStep_frame l s
    rw [hpc] at place dev
    refine (State.idleInv_handler (by rwa [← frame.ctx] at hm)).mpr
      ⟨by rw [← frame.mainPc] at main; exact main, fun hd => ?dev, lineStep_idleAt place⟩
    case dev =>
      obtain ⟨ownLine, ownRest⟩ := List.forall_mem_cons.mp (dev (frame.ctx.symm.trans hd))
      obtain ⟨ownNext, _⟩ := (devLineRuns ownLine s).expands
      exact List.forall_mem_append.mpr ⟨List.all_eq_true.mp ownNext, ownRest⟩

theorem interruptEntry_idleInv {c : Ctx} (hc : c ≠ .main) (hm : s.ctx = .main) (h : s.idleInv) :
    (interruptEntry c s).idleInv := by
  obtain ⟨main, below⟩ := (State.idleInv_main hm).mp h
  refine (State.idleInv_handler hc).mpr ⟨main, fun hd => ?dev, ?place⟩
  case dev =>
    rw [interruptEntry_ctx] at hd
    subst hd
    exact List.all_eq_true.mp rfl
  case place =>
    cases c
    case main => exact absurd rfl hc
    all_goals exact State.idleAt_of_paired rfl below

theorem cpuStep_idleInv (h : s.idleInv) : (cpuStep s).idleInv := by
  rcases cpuStep_cases s with ⟨_, heq⟩ | ⟨_, hm, heq⟩ | ⟨_, hm, _, heq⟩ | ⟨_, hm, _, heq⟩ | ⟨_, hm, _, heq⟩ <;> rw [heq]
  · exact h
  · exact isrStep_idleInv hm h
  · exact interruptEntry_idleInv (s.enters_ne_main _) hm h
  · exact mainStep_idleInv (s := { s with draws := s.draws + 1 }) hm h
  · exact mainStep_idleInv hm h

/-- Where the count has reached a rate that is not 0, the handler stands at AUTO_TICK's compare or before a
write of 0. -/
theorem idleAt_reached (h : s.idleAt s.isrPc) (rate : s.idleRate ≠ 0)
    (reached : s.idleRate.toNat ≤ s.idleCounter.toNat) :
    ∃ rest, ((s.isrPc = .tickCompare :: rest ∨ s.isrPc = .tickCompareRate s.idleCounter :: rest) ∧
        s.idleCounter = s.idleRate) ∨ s.isrPc = .setIdleCounter 0 :: rest := by
  have notBelow : ¬ s.idleBelow := fun below => below.elim rate (Nat.not_lt.mpr reached)
  have equal (le : s.idleCounter.toNat ≤ s.idleRate.toNat) : s.idleCounter = s.idleRate :=
    BitVec.eq_of_toNat_eq (Nat.le_antisymm le reached)
  revert h
  rcases hpc : s.isrPc with _ | ⟨l, ls⟩ <;> intro h
  · exact absurd (State.idleAt_nil.mp h) notBelow
  · cases l
    case tickCompare => exact ⟨ls, .inl ⟨.inl rfl, equal (h.2.resolve_left rate)⟩⟩
    case tickCompareRate v =>
      obtain ⟨carried, le⟩ := h.2.resolve_left rate
      exact ⟨ls, .inl ⟨.inr (by rw [carried]), equal le⟩⟩
    case setIdleCounter v => exact ⟨ls, .inr (by rw [h.1])⟩
    case setTickCount v => exact absurd (.inr (h.2.resolve_left rate).2) notBelow
    all_goals exact absurd h.2 notBelow

/-- The CPU's next step from SET_IDLE's second write, or AUTO_TICK's reset, leaves the count at 0. -/
theorem cpuStep_setIdleCounter (hm : s.ctx ≠ .main) (running : s.halted = false)
    (hpc : s.isrPc = .setIdleCounter 0 :: ls) : (cpuStep s).idleCounter = 0 := by
  rcases cpuStep_cases s with ⟨halted, _⟩ | ⟨_, _, heq⟩ | ⟨_, main, _⟩ | ⟨_, main, _⟩ | ⟨_, main, _⟩
  · cases running.symm.trans halted
  · simp [heq, isrStep, hpc, held, lineStep]
  all_goals exact absurd main hm

end

/-- Settles O53: no HOST action touches the count, the rate or a position, and the CPU's own step keeps the invariant
context by context. -/
theorem idleCountKept : Obligations.IdleCountKept := by
  refine ⟨fun s t hs h hstep => ⟨?kept, step_hostScript hs hstep⟩, fun s h rate reached => ?reached⟩
  case kept =>
    obtain ⟨entries, _, rfl | ⟨i, hi, hexec⟩⟩ := hostScript_step_cases hs hstep
    · exact cpuStep_idleInv (s := { s with script := entries }) h
    · have ports : OnlyPortChanges _ t := exec_hostAction_onlyPort hi hexec
      rw [ports]
      exact h
  case reached =>
    have handler : s.ctx ≠ .main := fun hm =>
      ((State.idleInv_main hm).mp h).2.elim rate (Nat.not_lt.mpr reached)
    obtain ⟨_, _, place⟩ := (State.idleInv_handler handler).mp h
    obtain ⟨rest, compare | write⟩ := idleAt_reached place rate reached
    · exact ⟨handler, rest, .inl compare⟩
    · exact ⟨handler, rest, .inr ⟨write, fun running => cpuStep_setIdleCounter handler running write⟩⟩

end Sys2Proof.Machine
end

section
/-! PROOF. The SETUP space of the decoder (30_encoding.md R110 to R114). A packet is what its request's patterns spell
of it, bit by bit of the two key bytes (`decodeRequest_packet`), and the six patterns are the ones well-formedness
names (`handledKey_iff`); so decoding and `Instr.packet` undo each other on well-formed requests. -/

namespace Sys2Proof.Machine

open Sys2Proof

/-! ## Halves and their bytes (R110) -/

theorem lo_halfOfBytes (lo hi : Byte) : (halfOfBytes lo hi).lo = lo := BitVec.extractLsb'_append_eq_right

theorem hi_halfOfBytes (lo hi : Byte) : (halfOfBytes lo hi).hi = hi := BitVec.extractLsb'_append_eq_left

theorem halfOfBytes_inj {lo hi lo' hi' : Byte} (h : halfOfBytes lo hi = halfOfBytes lo' hi') : lo = lo' ∧ hi = hi' := by
  have low := congrArg Half.lo h
  have high := congrArg Half.hi h
  rw [lo_halfOfBytes, lo_halfOfBytes] at low
  rw [hi_halfOfBytes, hi_halfOfBytes] at high
  exact ⟨low, high⟩

theorem UsbRequest.ofFields_args {r : UsbRequest} {bm br : Byte} (hbm : bm = r.b0) (hbr : br = r.b1) :
    UsbRequest.ofFields bm br r.args = r := by
  cases r
  subst hbm hbr
  simp only [UsbRequest.ofFields, UsbRequest.args, UsbRequest.wValue, UsbRequest.wIndex, UsbRequest.wLength,
    lo_halfOfBytes, hi_halfOfBytes]

theorem UsbRequest.args_ofFields (bm br : Byte) (a : SetupArgs) : (UsbRequest.ofFields bm br a).args = a := by
  cases a
  simp only [UsbRequest.ofFields, UsbRequest.args, UsbRequest.wValue, UsbRequest.wIndex, UsbRequest.wLength,
    halfOfBytes_lo_hi]

/-! ## The patterns, byte by byte (R114) -/

/-- The two key bytes fit the row's pattern under its mask. -/
def rowFits (row : RequestRow) (bm br : Byte) : Prop :=
  bm &&& row.mask.lo = row.pattern.lo ∧ br &&& row.mask.hi = row.pattern.hi

theorem rowFits_iff {row : RequestRow} {bm br : Byte} :
    rowFits row bm br ↔ halfOfBytes bm br &&& row.mask = row.pattern := by
  have bytes : halfOfBytes bm br &&& row.mask = halfOfBytes (bm &&& row.mask.lo) (br &&& row.mask.hi) := by
    rw [← halfOfBytes_lo_hi row.mask, lo_halfOfBytes, hi_halfOfBytes]
    exact BitVec.and_append
  rw [bytes, rowFits]
  constructor
  · rintro ⟨lo, hi⟩
    rw [lo, hi, halfOfBytes_lo_hi]
  · intro h
    rw [← halfOfBytes_lo_hi row.pattern] at h
    exact halfOfBytes_inj h

/-- The row of R114 a request has. -/
def rowOf : Request → RequestRow
  | .setAddress => { request := .setAddress, pattern := 0x0500, mask := 0xFFE0 }
  | .setConfiguration => { request := .setConfiguration, pattern := 0x0900, mask := 0xFFE0 }
  | .clearFeature => { request := .clearFeature, pattern := 0x0102, mask := 0xFF5F }
  | .setIdle => { request := .setIdle, pattern := 0x0A20, mask := 0xFFE0 }
  | .getDescriptor => { request := .getDescriptor, pattern := 0x0680, mask := 0xFFE0 }
  | .getReport => { request := .getReport, pattern := 0x01A0, mask := 0xFFE0 }
  | .fatal => { request := .fatal, pattern := 0x0000, mask := 0x0000 }

theorem eq_rowOf : ∀ row ∈ dispatchTable, row = rowOf row.request := by decide

theorem rowOf_request (q : Request) : (rowOf q).request = q := by cases q <;> rfl

theorem dispatchTable_take : dispatchTable.take 6 =
    [rowOf .setAddress, rowOf .setConfiguration, rowOf .clearFeature, rowOf .setIdle, rowOf .getDescriptor,
      rowOf .getReport] := rfl

/-- A byte mask that looks at every bit asks for the byte. -/
theorem and_allOnes_iff {b c : Byte} : b &&& 0xFF = c ↔ b = c := by
  have all : (0xFF : Byte) = BitVec.allOnes 8 := rfl
  rw [all, BitVec.and_allOnes]

/-- The key bytes each request's row asks for, where the mask of bmRequestType is 0xE0 or 0x5F. -/
theorem fits_rowOf (bm br : Byte) :
    (rowFits (rowOf .setAddress) bm br ↔ bm &&& 0xE0 = 0x00 ∧ br = 0x05) ∧
    (rowFits (rowOf .setConfiguration) bm br ↔ bm &&& 0xE0 = 0x00 ∧ br = 0x09) ∧
    (rowFits (rowOf .clearFeature) bm br ↔ bm &&& 0x5F = 0x02 ∧ br = 0x01) ∧
    (rowFits (rowOf .setIdle) bm br ↔ bm &&& 0xE0 = 0x20 ∧ br = 0x0A) ∧
    (rowFits (rowOf .getDescriptor) bm br ↔ bm &&& 0xE0 = 0x80 ∧ br = 0x06) ∧
    (rowFits (rowOf .getReport) bm br ↔ bm &&& 0xE0 = 0xA0 ∧ br = 0x01) :=
  have row {m p b : Byte} : (bm &&& m = p ∧ br &&& 0xFF = b) ↔ (bm &&& m = p ∧ br = b) :=
    and_congr_right fun _ => and_allOnes_iff
  ⟨row, row, row, row, row, row⟩

/-! ## bmRequestType from its fields (R111) -/

/-- Direction and type as the upper three bits: the byte is those bits and the recipient. -/
theorem bmOfFields_of_fits :
    (∀ b : Byte, b &&& 0xE0 = 0x00 → bmOfFields false 0 (b.extractLsb' 0 5) = b) ∧
    (∀ b : Byte, b &&& 0xE0 = 0x20 → bmOfFields false 1 (b.extractLsb' 0 5) = b) ∧
    (∀ b : Byte, b &&& 0xE0 = 0x80 → bmOfFields true 0 (b.extractLsb' 0 5) = b) ∧
    (∀ b : Byte, b &&& 0xE0 = 0xA0 → bmOfFields true 1 (b.extractLsb' 0 5) = b) ∧
    (∀ b : Byte, b &&& 0x5F = 0x02 → bmOfFields (b.getLsbD 7) (if b.getLsbD 5 then 1 else 0) 2 = b) := by decide

/-- And back: what the fields give fits. -/
theorem bmOfFields_fits :
    (∀ r : BitVec 5, bmOfFields false 0 r &&& 0xE0 = 0x00 ∧ bmOfFields false 1 r &&& 0xE0 = 0x20 ∧
      bmOfFields true 0 r &&& 0xE0 = 0x80 ∧ bmOfFields true 1 r &&& 0xE0 = 0xA0) ∧
    (∀ dir cls : Bool, bmOfFields dir (if cls then 1 else 0) 2 &&& 0x5F = 0x02) := by decide

/-- The bits well-formedness names are the ones the masks look at. -/
theorem fields_eq_masked :
    (∀ b : Byte, (!b.getLsbD 7 && b.extractLsb' 5 2 == 0) = (b &&& 0xE0 == 0x00)) ∧
    (∀ b : Byte, (!b.getLsbD 7 && b.extractLsb' 5 2 == 1) = (b &&& 0xE0 == 0x20)) ∧
    (∀ b : Byte, (b.getLsbD 7 && b.extractLsb' 5 2 == 0) = (b &&& 0xE0 == 0x80)) ∧
    (∀ b : Byte, (b.getLsbD 7 && b.extractLsb' 5 2 == 1) = (b &&& 0xE0 == 0xA0)) ∧
    (∀ b : Byte, ((b.extractLsb' 5 2 == 0 || b.extractLsb' 5 2 == 1) && b.extractLsb' 0 5 == 2) =
      (b &&& 0x5F == 0x02)) := by decide

theorem handledKey_iff {bm br : Byte} :
    handledKey bm br = true ↔ ∃ row ∈ dispatchTable.take 6, rowFits row bm br := by
  obtain ⟨setAddress, setConfiguration, clearFeature, setIdle, getDescriptor, getReport⟩ := fits_rowOf bm br
  obtain ⟨out, classOut, inn, classIn, feature⟩ := fields_eq_masked
  have masked : handledKey bm br =
      (br == 0x05 && bm &&& 0xE0 == 0x00 || br == 0x09 && bm &&& 0xE0 == 0x00 || br == 0x01 && bm &&& 0x5F == 0x02 ||
        br == 0x0A && bm &&& 0xE0 == 0x20 || br == 0x06 && bm &&& 0xE0 == 0x80 ||
        br == 0x01 && bm &&& 0xE0 == 0xA0) := by
    simp only [handledKey, Bool.and_assoc, ← out, ← classOut, ← inn, ← classIn, ← feature]
  rw [masked]
  simp only [dispatchTable_take, List.exists_mem_cons_iff, List.not_mem_nil, false_and, exists_false, or_false,
    setAddress, setConfiguration, clearFeature, setIdle, getDescriptor, getReport]
  simp only [Bool.or_eq_true, Bool.and_eq_true, beq_iff_eq, or_assoc, and_comm]

/-! ## DISPATCH and the packet (R113, R114) -/

theorem dispatch_fits (r : UsbRequest) : rowFits (rowOf (dispatchRow r.key)) r.b0 r.b1 := by
  refine rowFits_iff.mpr ?_
  rcases firstMatch_cases r.key dispatchTable with ⟨row, mem, found, heq⟩ | ⟨_, none⟩
  · rw [eq_rowOf row mem] at found
    rw [dispatchRow, heq]
    exact found
  · exact absurd BitVec.and_zero (none (rowOf .fatal) (by decide))

/-- The overlap of R114's patterns is the one key CLEAR_FEATURE takes from GET_REPORT (90_conflicts.md C6). -/
theorem dispatchRow_of_fits {q : Request} {bm br : Byte} (hq : q ≠ .fatal) (fits : rowFits (rowOf q) bm br)
    (noOverlap : q = .clearFeature ∨ halfOfBytes bm br ≠ 0x01A2) : dispatchRow (halfOfBytes bm br) = q := by
  by_cases overlap : halfOfBytes bm br = 0x01A2
  · rw [overlap, dispatchRow_overlap]
    exact (noOverlap.resolve_right (· overlap)).symm
  · have mem : rowOf q ∈ dispatchTable.take 6 := by
      rw [dispatchTable_take]
      cases q <;> simp at hq ⊢
    rw [dispatchRow_of_match mem (rowFits_iff.mp fits) overlap, rowOf_request]

theorem decodeRequest_packet (r : UsbRequest) : (decodeRequest r).packet = some r := by
  have fits := dispatch_fits r
  obtain ⟨setAddress, setConfiguration, clearFeature, setIdle, getDescriptor, getReport⟩ := fits_rowOf r.b0 r.b1
  obtain ⟨out, classOut, inn, classIn, feature⟩ := bmOfFields_of_fits
  unfold decodeRequest
  cases hq : dispatchRow r.key <;> rw [hq] at fits <;> refine congrArg some ?_
  case setAddress =>
    obtain ⟨bm, br⟩ := setAddress.mp fits
    exact UsbRequest.ofFields_args (out _ bm) br.symm
  case setConfiguration =>
    obtain ⟨bm, br⟩ := setConfiguration.mp fits
    exact UsbRequest.ofFields_args (out _ bm) br.symm
  case clearFeature =>
    obtain ⟨bm, br⟩ := clearFeature.mp fits
    exact UsbRequest.ofFields_args (feature _ bm) br.symm
  case setIdle =>
    obtain ⟨bm, br⟩ := setIdle.mp fits
    exact UsbRequest.ofFields_args (classOut _ bm) br.symm
  case getDescriptor =>
    obtain ⟨bm, br⟩ := getDescriptor.mp fits
    exact UsbRequest.ofFields_args (inn _ bm) br.symm
  case getReport =>
    obtain ⟨bm, br⟩ := getReport.mp fits
    exact UsbRequest.ofFields_args (classIn _ bm) br.symm
  case fatal => rfl

theorem decodeRequest_wf (r : UsbRequest) : (decodeRequest r).wf = true := by
  have fits := dispatch_fits r
  unfold decodeRequest
  cases hq : dispatchRow r.key <;> rw [hq] at fits
  case getReport =>
    obtain ⟨_, _, _, _, _, getReport⟩ := fits_rowOf r.b0 r.b1
    obtain ⟨_, _, _, classIn, _⟩ := bmOfFields_of_fits
    obtain ⟨bm, br⟩ := getReport.mp fits
    refine bne_iff_ne.mpr fun endpoint => ?_
    have overlap : r.key = 0x01A2 := by
      rw [UsbRequest.key, UsbRequest.bmRequestType, UsbRequest.bRequest, br, ← classIn _ bm, ← UsbRequest.bmRequestType,
        ← UsbRequest.recipient, endpoint]
      rfl
    rw [overlap, dispatchRow_overlap] at hq
    cases hq
  case fatal =>
    refine Bool.not_eq_true' _ |>.mpr (Bool.eq_false_of_not_eq_true fun handled => ?_)
    obtain ⟨row, mem, rowFits⟩ := handledKey_iff.mp handled
    exact (dispatchRow_eq_fatal_iff r.key).mp hq row mem (rowFits_iff.mp rowFits)
  all_goals rfl

theorem recipient_ofFields (dir : Bool) (type : BitVec 2) (recipient : BitVec 5) (br : Byte) (a : SetupArgs) :
    (UsbRequest.ofFields (bmOfFields dir type recipient) br a).recipient = recipient :=
  BitVec.extractLsb'_append_eq_right

theorem ne_overlap_of_bRequest {bm br : Byte} (h : br ≠ 0x01) : halfOfBytes bm br ≠ 0x01A2 := fun overlap =>
  h (halfOfBytes_inj (lo' := 0xA2) (hi' := 0x01) overlap).2

theorem bits_bmOfFields : ∀ dir cls : Bool, (bmOfFields dir (if cls then 1 else 0) 2).getLsbD 7 = dir ∧
    (bmOfFields dir (if cls then 1 else 0) 2).getLsbD 5 = cls := by decide

/-- Each request's packet is dispatched to its own row, and its fields are read back. -/
theorem decodeRequest_of_packet {i : Instr} {r : UsbRequest} (wf : i.wf = true) (h : i.packet = some r) :
    decodeRequest r = i := by
  obtain ⟨fields, feature⟩ := bmOfFields_fits
  have row {q : Request} {bm br : Byte} (a : SetupArgs) (hq : q ≠ .fatal) (fits : rowFits (rowOf q) bm br)
      (noOverlap : q = .clearFeature ∨ halfOfBytes bm br ≠ 0x01A2) :
      dispatchRow (UsbRequest.ofFields bm br a).key = q := dispatchRow_of_fits hq fits noOverlap
  cases i
  case setAddress recipient args =>
    cases h
    obtain ⟨out, _⟩ := fields recipient
    obtain ⟨fits, _⟩ := fits_rowOf (bmOfFields false 0 recipient) 0x05
    have hq := row args (by decide) (fits.mpr ⟨out, rfl⟩) (.inr (ne_overlap_of_bRequest (by decide)))
    simp only [decodeRequest, hq, recipient_ofFields, UsbRequest.args_ofFields]
  case setConfiguration recipient args =>
    cases h
    obtain ⟨out, _⟩ := fields recipient
    obtain ⟨_, fits, _⟩ := fits_rowOf (bmOfFields false 0 recipient) 0x09
    have hq := row args (by decide) (fits.mpr ⟨out, rfl⟩) (.inr (ne_overlap_of_bRequest (by decide)))
    simp only [decodeRequest, hq, recipient_ofFields, UsbRequest.args_ofFields]
  case clearFeature dir cls args =>
    cases h
    obtain ⟨_, _, fits, _⟩ := fits_rowOf (bmOfFields dir (if cls then 1 else 0) 2) 0x01
    have hq := row args (by decide) (fits.mpr ⟨feature dir cls, rfl⟩) (.inl rfl)
    have bits := bits_bmOfFields dir cls
    simp only [decodeRequest, hq, UsbRequest.args_ofFields]
    exact congrArg₂ (fun d c => Instr.clearFeature d c args) bits.1 bits.2
  case setIdle recipient args =>
    cases h
    obtain ⟨_, classOut, _⟩ := fields recipient
    obtain ⟨_, _, _, fits, _⟩ := fits_rowOf (bmOfFields false 1 recipient) 0x0A
    have hq := row args (by decide) (fits.mpr ⟨classOut, rfl⟩) (.inr (ne_overlap_of_bRequest (by decide)))
    simp only [decodeRequest, hq, recipient_ofFields, UsbRequest.args_ofFields]
  case getDescriptor recipient args =>
    cases h
    obtain ⟨_, _, inn, _⟩ := fields recipient
    obtain ⟨_, _, _, _, fits, _⟩ := fits_rowOf (bmOfFields true 0 recipient) 0x06
    have hq := row args (by decide) (fits.mpr ⟨inn, rfl⟩) (.inr (ne_overlap_of_bRequest (by decide)))
    simp only [decodeRequest, hq, recipient_ofFields, UsbRequest.args_ofFields]
  case getReport recipient args =>
    cases h
    obtain ⟨_, _, _, classIn⟩ := fields recipient
    obtain ⟨_, _, _, _, _, fits⟩ := fits_rowOf (bmOfFields true 1 recipient) 0x01
    have notEndpoint : halfOfBytes (bmOfFields true 1 recipient) 0x01 ≠ 0x01A2 := fun overlap => by
      have bm := (halfOfBytes_inj (lo' := 0xA2) (hi' := 0x01) overlap).1
      have endpoint : recipient = 2 := (recipient_ofFields true 1 recipient 0x01 args).symm.trans
        (congrArg (BitVec.extractLsb' 0 5) bm)
      exact bne_iff_ne.mp wf endpoint
    have hq := row args (by decide) (fits.mpr ⟨classIn, rfl⟩) (.inr notEndpoint)
    simp only [decodeRequest, hq, recipient_ofFields, UsbRequest.args_ofFields]
  case fatalUnhandled req =>
    cases h
    have unhandled : ¬ handledKey r.b0 r.b1 = true := by simpa [Instr.wf] using wf
    have hq : dispatchRow r.key = .fatal := (dispatchRow_eq_fatal_iff _).mpr fun row mem found =>
      unhandled (handledKey_iff.mpr ⟨row, mem, rowFits_iff.mpr found⟩)
    simp only [decodeRequest, hq]
  all_goals cases h

end Sys2Proof.Machine
end

section
/-! PROOF. The code space of the decoder (30_encoding.md R125, log 4) and the two round trips. One rule per operand
parser says which bytes it accepts and as what (an `↔`); read from right to left it is the round trip of
`DecodeEncode`, from left to right the one of `EncodeDecode`. -/

namespace Sys2Proof.Machine

open Sys2Proof

/-! ## Operand parsers: what they accept -/

theorem andThen_ok {α β : Type} {p : Parsed α} {f : α → List Byte → Parsed β} {x : β × List Byte} :
    andThen p f = .ok x ↔ ∃ a rest, p = .ok (a, rest) ∧ f a rest = .ok x := by
  cases p with
  | ok r =>
    obtain ⟨a, rest⟩ := r
    simp [andThen]
  | error e => simp [andThen]

theorem byteOperand_ok {bs rest : List Byte} {b : Byte} : byteOperand bs = .ok (b, rest) ↔ bs = b :: rest := by
  cases bs <;> simp [byteOperand]

theorem halfOperand_ok {bs rest : List Byte} {h : Half} :
    halfOperand bs = .ok (h, rest) ↔ bs = encodeHalf h ++ rest := by
  match bs with
  | [] => simp [halfOperand, encodeHalf]
  | [_] => simp [halfOperand, encodeHalf]
  | lo :: hi :: tail =>
    simp only [halfOperand, encodeHalf, Except.ok.injEq, Prod.mk.injEq, List.cons_append, List.nil_append,
      List.cons.injEq]
    constructor
    · rintro ⟨rfl, rfl⟩
      exact ⟨(lo_halfOfBytes lo hi).symm, (hi_halfOfBytes lo hi).symm, rfl⟩
    · rintro ⟨rfl, rfl, rfl⟩
      exact ⟨halfOfBytes_lo_hi h, rfl⟩

theorem bytesOperand_ok {n : Nat} {bs rest xs : List Byte} :
    bytesOperand n bs = .ok (xs, rest) ↔ xs.length = n ∧ bs = xs ++ rest := by
  rw [bytesOperand]
  split
  next enough =>
    simp only [Except.ok.injEq, Prod.mk.injEq]
    constructor
    · rintro ⟨rfl, rfl⟩
      exact ⟨List.length_take_of_le enough, (List.take_append_drop n bs).symm⟩
    · rintro ⟨rfl, rfl⟩
      simp
  next short =>
    simp only [reduceCtorEq, false_iff, not_and]
    rintro rfl rfl
    simp at short

theorem epOperand_ok {bs rest : List Byte} {e : EpNum} :
    epOperand bs = .ok (e, rest) ↔ bs = encodeEp e :: rest := by
  cases bs with
  | nil => simp [epOperand]
  | cons b tail =>
    have spelled : (∃ h : b.toNat < 5, (⟨b.toNat, h⟩ : EpNum) = e) ↔ b = encodeEp e := by
      have small : e.val < 5 := e.isLt
      rw [encodeEp]
      constructor
      · rintro ⟨_, rfl⟩
        simp
      · rintro rfl
        have value : (BitVec.ofNat 8 e.val).toNat = e.val := by simp only [BitVec.toNat_ofNat]; omega
        exact ⟨by omega, Fin.ext value⟩
    simp only [epOperand, List.cons.injEq, ← spelled]
    split <;> simp_all

theorem addrOperand_ok {bs rest : List Byte} {a : DevAddr} :
    addrOperand bs = .ok (a, rest) ↔ bs = encodeAddr a :: rest := by
  have spelled : ∀ b : Byte, ∀ a : DevAddr, (b.getLsbD 7 = false ∧ b.extractLsb' 0 7 = a) ↔ b = encodeAddr a := by
    intro b a
    rw [encodeAddr]
    constructor
    · rintro ⟨top, rfl⟩
      revert b; decide
    · rintro rfl
      revert a; decide
  cases bs with
  | nil => simp [addrOperand]
  | cons b tail =>
    simp only [addrOperand, List.cons.injEq, ← spelled]
    split <;> simp_all

theorem nibbleOperand_ok {bs rest : List Byte} {n : BitVec 4} :
    nibbleOperand bs = .ok (n, rest) ↔ bs = n.setWidth 8 :: rest := by
  have spelled : ∀ b : Byte, ∀ n : BitVec 4,
      (b.extractLsb' 4 4 = 0 ∧ b.extractLsb' 0 4 = n) ↔ b = n.setWidth 8 := by
    intro b n
    constructor
    · rintro ⟨top, rfl⟩
      revert b; decide
    · rintro rfl
      revert n; decide
  cases bs with
  | nil => simp [nibbleOperand]
  | cons b tail =>
    simp only [nibbleOperand, List.cons.injEq, ← spelled]
    split <;> simp_all

theorem flagOperand_ok {bs rest : List Byte} {x : Bool} :
    flagOperand bs = .ok (x, rest) ↔ bs = encodeFlag x :: rest := by
  cases bs with
  | nil => simp [flagOperand]
  | cons b tail => cases x <;> simp only [flagOperand, encodeFlag] <;> split_ifs <;> simp_all

theorem typeOperand_ok {bs rest : List Byte} {x : EpType} :
    typeOperand bs = .ok (x, rest) ↔ bs = encodeType x :: rest := by
  cases bs with
  | nil => simp [typeOperand]
  | cons b tail => cases x <;> simp only [typeOperand, encodeType] <;> split_ifs <;> simp_all

theorem dirOperand_ok {bs rest : List Byte} {x : EpDir} :
    dirOperand bs = .ok (x, rest) ↔ bs = encodeDir x :: rest := by
  cases bs with
  | nil => simp [dirOperand]
  | cons b tail => cases x <;> simp only [dirOperand, encodeDir] <;> split_ifs <;> simp_all

theorem banksOperand_ok {bs rest : List Byte} {x : Banks} :
    banksOperand bs = .ok (x, rest) ↔ bs = encodeBanks x :: rest := by
  cases bs with
  | nil => simp [banksOperand]
  | cons b tail => cases x <;> simp only [banksOperand, encodeBanks] <;> split_ifs <;> simp_all

/-- The number of an operand that fits its width. -/
theorem toNat_eq_iff {w n : Nat} {x : BitVec w} : x.toNat = n ↔ n < 2 ^ w ∧ x = BitVec.ofNat w n := by
  constructor
  · rintro rfl
    exact ⟨x.isLt, by simp⟩
  · rintro ⟨fits, rfl⟩
    exact Nat.mod_eq_of_lt fits

theorem configOperand_ok {bs rest : List Byte} {c : EndpointConfig} :
    configOperand bs = .ok (c, rest) ↔ c.size < 65536 ∧ bs = encodeConfig c ++ rest := by
  simp only [configOperand, andThen_ok, flagOperand_ok, typeOperand_ok, dirOperand_ok, banksOperand_ok, halfOperand_ok,
    Except.ok.injEq, Prod.mk.injEq]
  constructor
  · rintro ⟨enabled, _, rfl, type, _, rfl, direction, _, rfl, banks, _, rfl, size, _, rfl, alloc, _, rfl, rfl, rfl⟩
    refine ⟨size.isLt, ?_⟩
    simp only [encodeConfig, BitVec.ofNat_toNat, BitVec.setWidth_eq, List.cons_append, List.nil_append,
      List.append_assoc]
  · rintro ⟨fits, rfl⟩
    obtain ⟨enabled, type, direction, banks, size, alloc⟩ := c
    refine ⟨enabled, _, rfl, type, _, rfl, direction, _, rfl, banks, _, rfl, BitVec.ofNat 16 size, _, rfl, alloc, _,
      rfl,
      ?_, rfl⟩
    rw [toNat_eq_iff.mpr ⟨fits, rfl⟩]

theorem ctrlFifoWriteOperands_ok {bs rest : List Byte} {i : Instr} :
    ctrlFifoWriteOperands bs = .ok (i, rest) ↔ ∃ src len, i = .ctrlFifoWrite src len ∧ src.length < 256 ∧
      len.toNat ≤ src.length ∧ bs = BitVec.ofNat 8 src.length :: len :: src ++ rest := by
  simp only [ctrlFifoWriteOperands, andThen_ok, byteOperand_ok, bytesOperand_ok]
  constructor
  · rintro ⟨n, _, rfl, len, _, rfl, src, _, ⟨hlen, rfl⟩, h⟩
    obtain ⟨fits, rfl⟩ := toNat_eq_iff.mp hlen.symm
    split_ifs at h with inside
    cases h
    exact ⟨src, len, rfl, fits, hlen ▸ inside, rfl⟩
  · rintro ⟨src, len, rfl, fits, inside, rfl⟩
    have hlen : (BitVec.ofNat 8 src.length).toNat = src.length := toNat_eq_iff.mpr ⟨fits, rfl⟩
    refine ⟨_, _, rfl, len, _, rfl, src, rest, ⟨hlen.symm, rfl⟩, ?_⟩
    rw [hlen, if_pos inside]

theorem decodeGroupOperands_ok {bs rest : List Byte} {i : Instr} :
    decodeGroupOperands bs = .ok (i, rest) ↔ ∃ raw k, i = .decodeGroup raw k ∧ raw.length = Config.rawSize ∧ k < 8 ∧
      bs = BitVec.ofNat 8 k :: raw ++ rest := by
  simp only [decodeGroupOperands, andThen_ok, byteOperand_ok, bytesOperand_ok]
  constructor
  · rintro ⟨b, _, rfl, raw, _, ⟨hraw, rfl⟩, h⟩
    split_ifs at h with inside
    cases h
    exact ⟨raw, b.toNat, rfl, hraw, inside, by simp⟩
  · rintro ⟨raw, k, rfl, hraw, inside, rfl⟩
    have hk : (BitVec.ofNat 8 k).toNat = k := toNat_eq_iff.mpr ⟨by omega, rfl⟩
    refine ⟨_, _, rfl, raw, rest, ⟨hraw, rfl⟩, ?_⟩
    rw [hk, if_pos inside]

/-! ## Operations of the code space -/

/-- An operation code's byte is its number. -/
theorem code_eq {code : Byte} {n : Nat} (h : code.toNat = n) : code = BitVec.ofNat 8 n := (toNat_eq_iff.mp h).2

theorem decodeCode_encodes {i : Instr} {bytes rest : List Byte} (wf : i.wf = true) (h : i.codeBytes = some bytes) :
    decodeCode (bytes ++ rest) = .ok (i, rest) := by
  cases i <;> cases h
  case descSearch v x =>
    show Except.ok (Instr.descSearch (halfOfBytes v.lo v.hi) (halfOfBytes x.lo x.hi), rest) = _
    rw [halfOfBytes_lo_hi, halfOfBytes_lo_hi]
  case ctrlFifoWrite src len =>
    simp only [Instr.wf, Bool.and_eq_true, decide_eq_true_eq] at wf
    obtain ⟨fits, inside⟩ := wf
    exact ctrlFifoWriteOperands_ok.mpr ⟨src, len, rfl, by omega, inside, rfl⟩
  case reportUpdate r => exact andThen_ok.mpr ⟨r, rest, bytesOperand_ok.mpr ⟨beq_iff_eq.mp wf, rfl⟩, rfl⟩
  case pollCycle raw => exact andThen_ok.mpr ⟨raw, rest, bytesOperand_ok.mpr ⟨beq_iff_eq.mp wf, rfl⟩, rfl⟩
  case remap c => exact andThen_ok.mpr ⟨c, rest, bytesOperand_ok.mpr ⟨beq_iff_eq.mp wf, rfl⟩, rfl⟩
  case vote n => exact andThen_ok.mpr ⟨n, rest, nibbleOperand_ok.mpr rfl, rfl⟩
  case decodeGroup raw k =>
    simp only [Instr.wf, Bool.and_eq_true, beq_iff_eq, decide_eq_true_eq] at wf
    obtain ⟨hraw, inside⟩ := wf
    exact decodeGroupOperands_ok.mpr ⟨raw, k, rfl, hraw, inside, rfl⟩
  case select e => exact andThen_ok.mpr ⟨e, rest, epOperand_ok.mpr rfl, rfl⟩
  case epConfigure c =>
    exact andThen_ok.mpr ⟨c, rest, configOperand_ok.mpr ⟨of_decide_eq_true wf, rfl⟩, rfl⟩
  case setDevaddr a => exact andThen_ok.mpr ⟨a, rest, addrOperand_ok.mpr rfl, rfl⟩
  case hSetup a p =>
    exact andThen_ok.mpr ⟨a, _, addrOperand_ok.mpr rfl,
      andThen_ok.mpr ⟨p, rest, bytesOperand_ok.mpr ⟨beq_iff_eq.mp wf, rfl⟩, rfl⟩⟩
  case hIn a e =>
    exact andThen_ok.mpr ⟨a, _, addrOperand_ok.mpr rfl, andThen_ok.mpr ⟨e, rest, epOperand_ok.mpr rfl, rfl⟩⟩
  case hOut a e d =>
    have hlen : d.length = (BitVec.ofNat 16 d.length).toNat :=
      (toNat_eq_iff.mpr ⟨by simpa [Instr.wf] using wf, rfl⟩).symm
    exact andThen_ok.mpr ⟨a, _, addrOperand_ok.mpr rfl, andThen_ok.mpr ⟨e, _, epOperand_ok.mpr rfl,
      andThen_ok.mpr ⟨_, _, halfOperand_ok.mpr rfl, andThen_ok.mpr ⟨d, rest, bytesOperand_ok.mpr ⟨hlen, rfl⟩, rfl⟩⟩⟩⟩
  all_goals rfl

/-- `bs` is spelled by the well-formed operation `i` of the code space and the bytes `rest` behind it. -/
structure CodeSpells (i : Instr) (bs rest : List Byte) : Prop where
  wf : i.wf = true
  format : i.packet = none
  bytes : ∃ bytes, i.codeBytes = some bytes ∧ bytes ++ rest = bs

theorem codeSpells_of_decodeCode {i : Instr} {bs rest : List Byte} (h : decodeCode bs = .ok (i, rest)) :
    CodeSpells i bs rest := by
  cases bs with
  | nil => cases h
  | cons code bs =>
    simp only [decodeCode] at h
    split at h <;> rename_i hc
    case h_7 =>
      simp only [andThen_ok, halfOperand_ok] at h
      obtain ⟨v, _, rfl, x, _, rfl, h⟩ := h
      cases h
      cases code_eq hc
      exact ⟨rfl, rfl, _, rfl, rfl⟩
    case h_8 =>
      obtain ⟨src, len, rfl, fits, inside, rfl⟩ := ctrlFifoWriteOperands_ok.mp h
      cases code_eq hc
      refine ⟨?_, rfl, _, rfl, rfl⟩
      simp only [Instr.wf, Bool.and_eq_true, decide_eq_true_eq]
      exact ⟨by omega, inside⟩
    case h_10 | h_13 | h_14 =>
      simp only [andThen_ok, bytesOperand_ok] at h
      obtain ⟨xs, _, ⟨hlen, rfl⟩, h⟩ := h
      cases h
      cases code_eq hc
      exact ⟨beq_iff_eq.mpr hlen, rfl, _, rfl, rfl⟩
    case h_15 =>
      simp only [andThen_ok, nibbleOperand_ok] at h
      obtain ⟨n, _, rfl, h⟩ := h
      cases h
      cases code_eq hc
      exact ⟨rfl, rfl, _, rfl, rfl⟩
    case h_16 | h_24 =>
      simp only [andThen_ok, byteOperand_ok] at h
      obtain ⟨b, _, rfl, h⟩ := h
      cases h
      cases code_eq hc
      exact ⟨rfl, rfl, _, rfl, rfl⟩
    case h_17 =>
      obtain ⟨raw, k, rfl, hraw, inside, rfl⟩ := decodeGroupOperands_ok.mp h
      cases code_eq hc
      refine ⟨?_, rfl, _, rfl, rfl⟩
      simp only [Instr.wf, Bool.and_eq_true, beq_iff_eq, decide_eq_true_eq]
      exact ⟨hraw, inside⟩
    case h_18 =>
      simp only [andThen_ok, epOperand_ok] at h
      obtain ⟨e, _, rfl, h⟩ := h
      cases h
      cases code_eq hc
      exact ⟨rfl, rfl, _, rfl, rfl⟩
    case h_27 =>
      simp only [andThen_ok, configOperand_ok] at h
      obtain ⟨c, _, ⟨fits, rfl⟩, h⟩ := h
      cases h
      cases code_eq hc
      exact ⟨decide_eq_true fits, rfl, _, rfl, rfl⟩
    case h_29 =>
      simp only [andThen_ok, addrOperand_ok] at h
      obtain ⟨a, _, rfl, h⟩ := h
      cases h
      cases code_eq hc
      exact ⟨rfl, rfl, _, rfl, rfl⟩
    case h_36 =>
      simp only [andThen_ok, addrOperand_ok, bytesOperand_ok] at h
      obtain ⟨a, _, rfl, p, _, ⟨hlen, rfl⟩, h⟩ := h
      cases h
      cases code_eq hc
      exact ⟨beq_iff_eq.mpr hlen, rfl, _, rfl, rfl⟩
    case h_37 =>
      simp only [andThen_ok, addrOperand_ok, epOperand_ok] at h
      obtain ⟨a, _, rfl, e, _, rfl, h⟩ := h
      cases h
      cases code_eq hc
      exact ⟨rfl, rfl, _, rfl, rfl⟩
    case h_38 =>
      simp only [andThen_ok, addrOperand_ok, epOperand_ok, halfOperand_ok, bytesOperand_ok] at h
      obtain ⟨a, _, rfl, e, _, rfl, n, _, rfl, d, _, ⟨hlen, rfl⟩, h⟩ := h
      cases h
      cases code_eq hc
      obtain ⟨fits, rfl⟩ := toNat_eq_iff.mp hlen.symm
      exact ⟨decide_eq_true fits, rfl, _, rfl, by simp⟩
    case h_40 => cases h
    -- the codes without operands
    all_goals
      cases h
      cases code_eq hc
      exact ⟨rfl, rfl, _, rfl, rfl⟩

theorem Instr.packet_or_codeBytes (i : Instr) :
    (∃ r, i.packet = some r) ∨ i.packet = none ∧ ∃ bytes, i.codeBytes = some bytes := by
  cases i <;> simp [Instr.packet, Instr.codeBytes]

theorem decodeSetup_bytes (r : UsbRequest) (rest : List Byte) :
    decodeSetup (r.bytes ++ rest) = .ok (decodeRequest r, rest) := rfl

theorem decodeSetup_ok {bs rest : List Byte} {i : Instr} :
    decodeSetup bs = .ok (i, rest) ↔ ∃ r : UsbRequest, bs = r.bytes ++ rest ∧ i = decodeRequest r := by
  constructor
  · intro h
    rw [decodeSetup.eq_def] at h
    split at h
    next b0 b1 b2 b3 b4 b5 b6 b7 tail =>
      cases h
      exact ⟨⟨b0, b1, b2, b3, b4, b5, b6, b7⟩, rfl, rfl⟩
    next => cases h
  · rintro ⟨r, rfl, rfl⟩
    exact decodeSetup_bytes r rest

/-- Settles O1: each space's parser, read from the bytes it accepts. -/
theorem decodeEncode : Obligations.DecodeEncode := by
  unfold Obligations.DecodeEncode
  intro i rest wf
  rcases Instr.packet_or_codeBytes i with ⟨r, hr⟩ | ⟨noPacket, bytes, hbytes⟩
  · simp only [encode, Instr.format, hr, Option.isSome_some, if_true, decodeBytes]
    rw [decodeSetup_bytes, decodeRequest_of_packet wf hr]
  · simp only [encode, Instr.format, noPacket, hbytes, Option.isSome_none, Option.getD_some, decodeBytes]
    exact decodeCode_encodes wf hbytes

/-- Settles O2: what a space's parser accepts is the encoding, byte for byte. -/
theorem encodeDecode : Obligations.EncodeDecode := by
  unfold Obligations.EncodeDecode
  intro format bs rest i h
  cases format with
  | setup =>
    obtain ⟨r, rfl, rfl⟩ := decodeSetup_ok.mp h
    refine ⟨decodeRequest_wf r, ?_, ?_⟩
    · rw [Instr.format, decodeRequest_packet, Option.isSome_some, if_pos rfl]
    · rw [encode, decodeRequest_packet]
  | code =>
    obtain ⟨wf, noPacket, bytes, hbytes, spelled⟩ := codeSpells_of_decodeCode h
    refine ⟨wf, ?_, ?_⟩
    · rw [Instr.format, noPacket, Option.isSome_none, if_neg (by decide)]
    · rw [encode, noPacket, hbytes]
      exact spelled

end Sys2Proof.Machine
end

section
/-! PROOF. A handler as a whole and the handler step by step (00_scope.md R6, R7; log 6). A run of handler lines is a
number of the CPU's own steps from the same position (`CpuSteps`), none of them from a quiescent point, so both a run
of steps and `cpu RUN` go through it. -/

namespace Sys2Proof.Machine

open Sys2Proof

/-! ## The CPU's steps inside a handler -/

theorem cpuStep_in_handler {s : State} (handler : s.ctx ≠ .main) (running : s.halted = false) :
    cpuStep s = isrStep s := by
  rcases cpuStep_cases s with ⟨halted, _⟩ | ⟨_, _, h⟩ | ⟨_, hm, _⟩ | ⟨_, hm, _⟩ | ⟨_, hm, _⟩
  · cases running.symm.trans halted
  · exact h
  all_goals exact absurd hm handler

theorem isrStep_line {s : State} {l : Line} {ls : List Line} (hpc : s.isrPc = l :: ls) (free : held l s = false) :
    isrStep s = (lineStep l s).1.atIsrPc ((lineStep l s).2 ++ ls) := by
  simp [isrStep, hpc, free, State.atIsrPc]

theorem isrStep_held {s : State} {l : Line} {ls : List Line} (hpc : s.isrPc = l :: ls) (hold : held l s = true) :
    isrStep s = s := by
  simp [isrStep, hpc, hold]

theorem isrStep_end {s : State} (hpc : s.isrPc = []) : isrStep s = returnFromInterrupt s := by
  simp [isrStep, hpc]

/-- `n` CPU steps lead from the first state to the second, with nothing scheduled and none from a quiescent point. -/
inductive CpuSteps : Nat → State → State → Prop
  | refl (s : State) : CpuSteps 0 s s
  | step {n : Nat} {s t : State} (script : s.script = []) (busy : s.quiescent = false)
      (rest : CpuSteps n (cpuStep s) t) : CpuSteps (n + 1) s t

theorem CpuSteps.runSteps {n : Nat} {s t : State} (h : CpuSteps n s t) : runSteps n s = .next t := by
  induction h with
  | refl => rfl
  | step script _ _ ih => rw [runSteps_of_step _ (step_of_script_nil script), ih]

theorem CpuSteps.cpuRun {n : Nat} {s t : State} (h : CpuSteps n s t) (m : Nat) : cpuRun (n + m) s = cpuRun m t := by
  induction h with
  | refl => rw [Nat.zero_add]
  | step _ busy _ ih => rw [Nat.add_right_comm, cpuRun_step busy, ih]

theorem CpuSteps.trans {m n : Nat} {s t u : State} (h : CpuSteps m s t) (h' : CpuSteps n t u) :
    CpuSteps (m + n) s u := by
  induction h with
  | refl => rwa [Nat.zero_add]
  | step script busy _ ih => rw [Nat.add_right_comm]; exact .step script busy (ih h')

theorem State.quiescent_eq_false_of_free {s : State} (handler : s.ctx ≠ .main) (running : s.halted = false)
    (free : ∀ l ∈ s.isrPc.head?, held l s = false) : s.quiescent = false := by
  have notMain : (s.ctx == .main) = false := beq_false_of_ne handler
  have notHeld : (s.isrPc.head?.any fun l => held l s) = false := by
    cases hpc : s.isrPc.head? with
    | none => rfl
    | some l => exact free l hpc
  rw [State.quiescent, State.idleInMain, State.holds, notMain, notHeld, running]
  simp

/-- A handler's line that does not hold is one CPU step (R6). -/
theorem CpuSteps.line {s : State} {l : Line} {ls : List Line} (handler : s.ctx ≠ .main) (running : s.halted = false)
    (script : s.script = []) (free : held l s = false) :
    CpuSteps 1 (s.atIsrPc (l :: ls)) ((lineStep l s).1.atIsrPc ((lineStep l s).2 ++ ls)) := by
  have free' : held l (s.atIsrPc (l :: ls)) = false := (held_atIsrPc l s _).trans free
  have busy : (s.atIsrPc (l :: ls)).quiescent = false :=
    State.quiescent_eq_false_of_free handler running fun _ hl => Option.some.inj hl ▸ free'
  have next : cpuStep (s.atIsrPc (l :: ls)) = (lineStep l s).1.atIsrPc ((lineStep l s).2 ++ ls) := by
    rw [cpuStep_in_handler (s := s.atIsrPc (l :: ls)) handler running, isrStep_line rfl free', lineStep_atIsrPc]
    rfl
  exact .step script busy (next ▸ .refl _)

/-- A run of a handler's lines, step by step (log 6). -/
theorem cpuSteps_of_runLines {n : Nat} {ls ls' rest : List Line} {s t : State} (own : ∀ l ∈ ls, HandlerLine l)
    (handler : s.ctx ≠ .main) (script : s.script = []) (h : runLines n ls s = (t, ls')) :
    ∃ k, CpuSteps k (s.atIsrPc (ls ++ rest)) (t.atIsrPc (ls' ++ rest)) := by
  induction n generalizing ls s with
  | zero =>
    cases h
    exact ⟨0, .refl _⟩
  | succ n ih =>
    cases ls with
    | nil =>
      cases h
      exact ⟨0, .refl _⟩
    | cons l ls =>
      have ownLine : HandlerLine l := own l List.mem_cons_self
      by_cases stopped : (s.halted || held l s || pauses l) = true
      · rw [runLines_stop stopped] at h
        cases h
        exact ⟨0, .refl _⟩
      · simp only [Bool.or_eq_true, not_or, Bool.not_eq_true] at stopped
        obtain ⟨⟨running, free⟩, noPause⟩ := stopped
        have ne : l ≠ .delay := by
          rintro rfl
          rcases ownLine with own | own <;> cases own
        rw [runLines_line running free noPause ne] at h
        have frame := lineStep_frame l s
        obtain ⟨k, steps⟩ := ih
          (fun l' hl' => (List.mem_append.mp hl').elim (ownLine.expands s l')
            fun hl' => own l' (List.mem_cons_of_mem _ hl'))
          (fun main => handler (frame.ctx ▸ main)) (frame.script.trans script) h
        rw [List.append_assoc] at steps
        exact ⟨1 + k, (CpuSteps.line handler running script free).trans steps⟩

/-! ## Quiescent points (R413) -/

/-- At a quiescent point the CPU is idle: in MAIN it stays in its DELAY, in a hold and after the halt it has no step. -/
theorem cpuStep_of_quiescent {s : State} (h : s.quiescent = true) :
    (cpuStep s = s) ∨
      (s.ctx = .main ∧ s.halted = false ∧ ∃ pc draws, cpuStep s = { s with mainPc := pc, draws := draws }) := by
  rcases Bool.eq_false_or_eq_true s.halted with halted | running
  · exact .inl (cpuStep_halted halted)
  · simp only [State.quiescent, Bool.or_eq_true, running, or_false, Bool.false_eq_true] at h
    rcases h with idle | waits
    · simp only [State.idleInMain, Bool.and_eq_true, beq_iff_eq, Bool.not_eq_true'] at idle
      obtain ⟨⟨⟨hm, code⟩, noDev⟩, noEp⟩ := idle
      have noEntry := State.mayEnter_of_nothing_pending noDev noEp
      have next : cpuStep s = mainStep s := by simp [cpuStep, running, hm, noEntry]
      rw [next]
      rcases mainStep_cases s with same | ⟨l, ls, hcode, _, line⟩
      · exact .inl same
      · rw [hcode] at code
        obtain rfl := Option.some.inj code
        exact .inr ⟨hm, running, _, s.draws + 1, line⟩
    · simp only [State.holds, Bool.and_eq_true, beq_iff_eq] at waits
      obtain ⟨⟨hc, _⟩, hold⟩ := waits
      refine .inl ?_
      cases hpc : s.isrPc with
      | nil => rw [hpc] at hold; cases hold
      | cons l ls =>
        rw [hpc] at hold
        have hold : held l s = true := hold
        rw [cpuStep_in_handler (by simp [hc]) running, isrStep_held hpc hold]

/-! ## The handlers (R371, R374) -/

/-- An interrupt as a whole is a number of CPU steps from its entry (log 6). -/
theorem cpuSteps_takeInterrupt {s : State} {c : Ctx} (script : s.script = []) (enter : s.canEnter c = true) :
    ∃ n, CpuSteps n (interruptEntry c s) (takeInterrupt c s) := by
  have handler : c ≠ .main := by
    rintro rfl
    cases (State.canEnter_main s).symm.trans enter
  rcases takeInterrupt_cases c s with ⟨no, _⟩ | ⟨_, t, ls, hrun, hend⟩
  · cases enter.symm.trans no
  · obtain ⟨n, steps⟩ := cpuSteps_of_runLines (s := interruptEntry c s) (rest := [])
      (handlerCode_own c) handler script hrun
    rw [List.append_nil, List.append_nil] at steps
    have start : (interruptEntry c s).atIsrPc (handlerCode c) = interruptEntry c s := rfl
    rw [start] at steps
    rcases hend with ⟨rfl, running, whole⟩ | ⟨_, whole⟩ <;> rw [whole]
    · have frame := runLines_frame lineBound (handlerCode c) (interruptEntry c s)
      rw [hrun] at frame
      have inside : t.ctx = c := frame.ctx
      have noScript : t.script = [] := frame.script.trans script
      have busy : (t.atIsrPc []).quiescent = false :=
        State.quiescent_eq_false_of_free (inside ▸ handler) running fun _ hl => nomatch hl
      have ends : cpuStep (t.atIsrPc []) = returnFromInterrupt t := by
        rw [cpuStep_in_handler (s := t.atIsrPc []) (inside ▸ handler) running, isrStep_end rfl]
        rfl
      exact ⟨n + 1, steps.trans (.step noScript busy (ends ▸ .refl _))⟩
    · exact ⟨n, steps⟩

/-- Settles O47: the handler's run, one step a line, and the idle step of each quiescent point. -/
theorem handlerStepByStep : Obligations.HandlerStepByStep := by
  refine ⟨fun s c i script enter which => ?whole, fun s t script quiet h => ?idle⟩
  case whole =>
    have hexec : exec i s = .next (takeInterrupt c s) := by
      rcases which with ⟨rfl, rfl⟩ | ⟨rfl, rfl⟩ <;> rfl
    obtain ⟨n, steps⟩ := cpuSteps_takeInterrupt script enter
    refine ⟨⟨n, hexec ▸ steps.runSteps⟩, fun t ht quiet => ⟨n, ?_⟩⟩
    obtain rfl := Host.Outcome.next.inj (hexec.symm.trans ht)
    exact (steps.cpuRun 0).trans (cpuRun_quiescent quiet 0)
  case idle =>
    rw [step_of_script_nil script] at h
    obtain rfl := Host.Outcome.next.inj h
    rcases cpuStep_of_quiescent quiet with same | ⟨hm, running, pc, draws, next⟩
    · rw [same]
      exact ⟨rfl, fun _ => rfl⟩
    · rw [next]
      exact ⟨rfl, fun outside => outside.elim (absurd hm) fun halted => nomatch running.symm.trans halted⟩

end Sys2Proof.Machine
end

section
/-! PROOF. CTRL_FIFO_WRITE (42_control.md R240) bank by bank, and GET_DESCRIPTOR (R237), which runs it on a table
entry. From its hold CTRL_FIFO_WRITE is aborted, sends its last bank, or sends a full bank and holds again; each of the
three is a run of lines in front of any others, so the same lemma serves the operation as a whole, the CPU's steps from
the hold, and the request around it. -/

namespace Sys2Proof.Machine

open Sys2Proof

/-! ## Runs of lines up to a position -/

/-- A run of `k` lines leads from the lines `ls` and the state `s` to the lines `ls'` and the state `t`. -/
def LinesLead (k : Nat) (ls : List Line) (s : State) (ls' : List Line) (t : State) : Prop :=
  ∀ n, runLines (k + n) ls s = runLines n ls' t

theorem LinesLead.trans {j k : Nat} {ls ls' ls'' : List Line} {s t u : State} (h : LinesLead j ls s ls' t)
    (h' : LinesLead k ls' t ls'' u) : LinesLead (j + k) ls s ls'' u := fun n => by
  rw [Nat.add_assoc, h, h']

/-- One line that runs. -/
theorem LinesLead.line {l : Line} {ls : List Line} {s : State} (running : s.halted = false) (free : held l s = false)
    (noPause : pauses l = false) (ne : l ≠ .delay) :
    LinesLead 1 (l :: ls) s ((lineStep l s).2 ++ ls) (lineStep l s).1 :=
  fun n => by rw [Nat.add_comm, runLines_line running free noPause ne]

theorem LinesLead.runLines {k : Nat} {ls ls' : List Line} {s t : State} (h : LinesLead k ls s ls' t) :
    runLines k ls s = (t, ls') := h 0

/-- Led to its end within the lines an operation may take, the whole run ends there. -/
theorem LinesLead.ends {k : Nat} {ls : List Line} {s t : State} (h : LinesLead k ls s [] t) (hk : k ≤ lineBound) :
    Machine.runLines lineBound ls s = (t, []) := by
  rw [← Nat.add_sub_of_le hk, h, runLines_nil]

/-- Led to a line that holds, pauses or comes after the halt, the whole run stops there. -/
theorem LinesLead.stops {k : Nat} {l : Line} {ls ls' : List Line} {s t : State} (h : LinesLead k ls s (l :: ls') t)
    (hk : k < lineBound) (stopped : (t.halted || held l t || pauses l) = true) :
    Machine.runLines lineBound ls s = (t, l :: ls') := by
  obtain ⟨n, hn⟩ := Nat.exists_eq_add_of_lt hk
  rw [hn, Nat.add_assoc, h, runLines_stop stopped]

theorem LinesLead.holds {k : Nat} {l : Line} {ls ls' : List Line} {s t : State} (h : LinesLead k ls s (l :: ls') t)
    (hk : k < lineBound) (waits : held l t = true) : Machine.runLines lineBound ls s = (t, l :: ls') :=
  h.stops hk (by rw [waits, Bool.or_true, Bool.true_or])

/-- Lines that write one block variable: never waited in, nothing put in front, no halt. -/
def writesVariable : Line → Bool
  | .setPhase _ | .cwSetSrc _ | .cwSetPos _ | .cwSetRem _ | .cwSetLast _ | .ret _ | .setDevaddr _ | .setIdleCounter _
  | .saveI | .restoreI | .setI _ | .selectReport | .sendReadFrame => true
  | _ => false

theorem LinesLead.variables {ls : List Line} (own : ls.all writesVariable = true) (rest : List Line) {s : State}
    (running : s.halted = false) : LinesLead ls.length (ls ++ rest) s rest (afterLines ls s) := by
  induction ls generalizing s with
  | nil => exact fun n => by rw [List.length_nil, Nat.zero_add]; rfl
  | cons l ls ih =>
    rw [List.all_cons, Bool.and_eq_true] at own
    obtain ⟨ownLine, ownRest⟩ := own
    rw [List.length_cons, Nat.add_comm]
    cases l
    case setPhase | cwSetSrc | cwSetPos | cwSetRem | cwSetLast | ret | setDevaddr | setIdleCounter | saveI | restoreI
        | setI | selectReport | sendReadFrame =>
      exact (LinesLead.line running rfl rfl (by simp)).trans (ih ownRest running)
    all_goals cases ownLine

/-! ## One bank of CTRL_FIFO_WRITE (R240) -/

/-- The endpoint after a bank with `bytes` added to it is handed to the host. -/
def Endpoint.sendBytes (bytes : List Byte) (x : Endpoint) : Endpoint :=
  { x with committed := x.committed ++ [x.cur ++ bytes], cur := [] }

theorem Endpoint.sendBytes_of_clear {x : Endpoint} (bytes : List Byte) (empty : x.committed = []) (clear : x.cur = []) :
    Endpoint.sendBytes bytes x = { x with committed := [bytes] } := by
  cases x
  cases empty
  cases clear
  rfl

/-- `ce` before the first bank: the hold, at the start of `src`. -/
def ControlEngine.starts (src : List Byte) (len : Byte) (ce : ControlEngine) : ControlEngine :=
  { ce with phase := .cwWait, src := src, pos := 0, rem := len }

/-- CTRL_FIFO_WRITE at its first hold. -/
def State.cwStarts (s : State) (src : List Byte) (len : Byte) : State :=
  { s with ce := ControlEngine.starts src len s.ce }

/-- `ce` after a bank of `m` bytes. -/
def ControlEngine.advances (m : Byte) (ce : ControlEngine) : ControlEngine :=
  { phase := .cwFill, src := ce.src, pos := ce.pos + m, rem := ce.rem - m, lastN := m }

/-- The state after a bank of `m` bytes. -/
def State.bankSent (s : State) (m : Nat) : State :=
  { s.modEp 0 (Endpoint.sendBytes ((s.ce.src.drop s.ce.pos.toNat).take m)) with
    ce := ControlEngine.advances (BitVec.ofNat 8 m) s.ce }

theorem afterLines_cwStarts (src : List Byte) (len : Byte) (s : State) :
    afterLines [.cwSetSrc src, .cwSetPos 0, .cwSetRem len, .setPhase .cwWait] s = s.cwStarts src len := by
  simp only [afterLines, List.foldl, lineStep, setPhase, State.cwStarts, ControlEngine.starts]

/-- CTRL_FIFO_WRITE up to its hold. -/
theorem linesLead_cwStart (src : List Byte) (len : Byte) (ls : List Line) {s : State} (running : s.halted = false) :
    LinesLead 4 (ctrlFifoWriteCode src len ++ ls) s (.cwWait :: ls) (s.cwStarts src len) := by
  rw [← afterLines_cwStarts]
  exact LinesLead.variables (ls := [.cwSetSrc src, .cwSetPos 0, .cwSetRem len, .setPhase .cwWait]) rfl (.cwWait :: ls)
    running

/-- An OUT received ends it (R240). -/
theorem linesLead_cwAbort (ls : List Line) {s : State} (running : s.halted = false) (selected : s.epSel = 0)
    (out : (s.ep 0).rxout = true) : LinesLead 2 (.cwWait :: ls) s ls { s with ret := .aborted } := by
  have free : held .cwWait s = false := by simp [held, out]
  have wait := LinesLead.line (ls := ls) running free rfl (by simp)
  rw [lineStep, selected, out, if_pos rfl] at wait
  exact wait.trans (LinesLead.variables (ls := [.ret .aborted]) rfl ls running)

/-- Not aborted and a bank free: it goes on to the fill of `m` bytes. -/
theorem linesLead_cwFill (ls : List Line) {s : State} {m : Nat} (running : s.halted = false) (selected : s.epSel = 0)
    (noOut : (s.ep 0).rxout = false) (bank : (s.ep 0).txrdy = true) (hm : m = min s.ce.rem.toNat 32) :
    LinesLead 3 (.cwWait :: ls) s (fillBankCode m ++ ls) (setPhase .cwFill s) := by
  have free : held .cwWait s = false := by simp [held, bank]
  have wait := LinesLead.line (ls := ls) running free rfl (by simp)
  rw [lineStep, selected, noOut, if_neg (by simp)] at wait
  have size := LinesLead.line (l := .cwFill) (ls := ls) (s := setPhase .cwFill s) running rfl rfl (by simp)
  subst hm
  exact wait.trans ((LinesLead.variables (ls := [.setPhase .cwFill]) rfl (.cwFill :: ls) running).trans size)

/-- The bytes of a bank, with room for them. -/
theorem linesLead_cwBytes (ls : List Line) {s : State} (m : Nat) (running : s.halted = false) (selected : s.epSel = 0)
    (on : (s.ep 0).en = true) (bank : (s.ep 0).committed.length < bankCount (s.ep 0).banks)
    (room : (s.ep 0).cur.length + m ≤ (s.ep 0).size) :
    ∃ k, k ≤ 3 * m ∧ LinesLead k ((List.range m).map .cwByte ++ ls) s ls
      (s.modEp 0 fun x => { x with cur := x.cur ++ (s.ce.src.drop s.ce.pos.toNat).take m }) := by
  have bytes := runLines_sourceWrites ls m 0 s running
  rw [selected] at bytes
  obtain ⟨k, hk, lead⟩ := bytes on bank room
  rw [← List.range_eq_range', Nat.add_zero] at lead
  exact ⟨k, hk, lead⟩

/-- The state after a bank's position, remaining count and size are written. -/
def State.cwAdvanced (s : State) (n : Byte) : State :=
  { s with ce := { s.ce with pos := s.ce.pos + n, rem := s.ce.rem - n, lastN := n } }

theorem afterLines_cwAdvanced (s : State) (n : Byte) :
    afterLines [.cwSetPos (s.ce.pos + n), .cwSetRem (s.ce.rem - n), .cwSetLast n] s = s.cwAdvanced n := by
  simp only [afterLines, List.foldl, lineStep, State.cwAdvanced]

/-- After its bytes a bank's position, remaining count and size are written. -/
theorem linesLead_cwAdvance (n : Byte) (ls : List Line) {s : State} (running : s.halted = false) :
    LinesLead 5 ([.cwAddPos n, .cwSubRem n, .cwSetLast n] ++ ls) s ls (s.cwAdvanced n) := by
  have position := (LinesLead.line (l := .cwAddPos n) (ls := .cwSubRem n :: .cwSetLast n :: ls) running rfl rfl
    (by simp)).trans (LinesLead.line (l := .cwSetPos (s.ce.pos + n)) running rfl rfl (by simp))
  have count := LinesLead.line (l := .cwSubRem n) (ls := .cwSetLast n :: ls)
    (s := (lineStep (.cwSetPos (s.ce.pos + n)) s).1) running rfl rfl (by simp)
  have writes := LinesLead.variables (ls := [.cwSetRem (s.ce.rem - n), .cwSetLast n]) rfl ls
    (s := (lineStep (.cwSetPos (s.ce.pos + n)) s).1) running
  rw [← afterLines_cwAdvanced]
  exact position.trans (count.trans writes)

theorem linesLead_commit (ls : List Line) {s : State} (running : s.halted = false) (selected : s.epSel = 0)
    (room : (s.ep 0).hasRoom) : LinesLead 1 (.commit :: ls) s ls (s.modEp 0 Endpoint.commitOrDrop) := by
  have line := LinesLead.line (l := .commit) (ls := ls) running rfl rfl (by simp)
  rwa [lineStep, portCommit_hasRoom (by rwa [selected]), selected] at line

/-- A bank is closed: the three variables, the commit, and the test of the loop. -/
theorem linesLead_cwClose (n : Byte) (ls : List Line) {s : State} (running : s.halted = false) (selected : s.epSel = 0)
    (on : (s.ep 0).en = true) (bank : (s.ep 0).committed.length < bankCount (s.ep 0).banks) :
    LinesLead 7 ([.cwAddPos n, .cwSubRem n, .cwSetLast n, .commit, .cwLoop n] ++ ls) s
      ((if cwDone s.params (s.ce.rem - n) n then [.ret .done] else [.setPhase .cwWait, .cwWait]) ++ ls)
      ((s.cwAdvanced n).modEp 0 Endpoint.commitBank) := by
  have commit : (s.cwAdvanced n).modEp 0 Endpoint.commitOrDrop = (s.cwAdvanced n).modEp 0 Endpoint.commitBank :=
    congrArg ((s.cwAdvanced n).setEp 0) (if_pos on)
  have send := linesLead_commit (.cwLoop n :: ls) (s := s.cwAdvanced n) running selected fun _ => bank
  rw [commit] at send
  have loop := LinesLead.line (l := .cwLoop n) (ls := ls) (s := (s.cwAdvanced n).modEp 0 Endpoint.commitBank)
    running rfl rfl (by simp)
  exact (linesLead_cwAdvance n _ running).trans (send.trans loop)

/-- A bank in its parts: the phase, the bytes, the variables, the commit. -/
theorem State.bankSent_eq (s : State) (m : Nat) :
    s.bankSent m = (((setPhase .cwFill s).modEp 0 fun x =>
      { x with cur := x.cur ++ (s.ce.src.drop s.ce.pos.toNat).take m }).cwAdvanced (BitVec.ofNat 8 m)).modEp 0
        Endpoint.commitBank := by
  have twice : (s.modEp 0 fun x => { x with cur := x.cur ++ (s.ce.src.drop s.ce.pos.toNat).take m }).modEp 0
      Endpoint.commitBank = s.modEp 0 (Endpoint.sendBytes ((s.ce.src.drop s.ce.pos.toNat).take m)) :=
      State.modEp_modEp ..
  rw [State.bankSent, ← twice]
  rfl

/-- A bank the host has taken is filled with the next `m` bytes and committed. -/
theorem linesLead_cwBank (ls : List Line) {s : State} {m : Nat} (running : s.halted = false) (selected : s.epSel = 0)
    (noOut : (s.ep 0).rxout = false) (on : (s.ep 0).en = true)
    (bank : (s.ep 0).committed.length < bankCount (s.ep 0).banks) (room : (s.ep 0).cur.length + m ≤ (s.ep 0).size)
    (hm : m = min s.ce.rem.toNat 32) :
    ∃ k, k ≤ 3 * m + 10 ∧ LinesLead k (.cwWait :: ls) s
      ((if cwDone s.params (s.ce.rem - BitVec.ofNat 8 m) (BitVec.ofNat 8 m) then [.ret .done]
        else [.setPhase .cwWait, .cwWait]) ++ ls) (s.bankSent m) := by
  have txrdy : (s.ep 0).txrdy = true := by simp [Endpoint.txrdy, on, bank]
  have fill := linesLead_cwFill ls running selected noOut txrdy hm
  obtain ⟨k, hk, bytes⟩ := linesLead_cwBytes
    ([.cwAddPos (BitVec.ofNat 8 m), .cwSubRem (BitVec.ofNat 8 m), .cwSetLast (BitVec.ofNat 8 m), .commit,
      .cwLoop (BitVec.ofNat 8 m)] ++ ls) (s := setPhase .cwFill s) m running selected on bank room
  have close := linesLead_cwClose (BitVec.ofNat 8 m) ls
    (s := (setPhase .cwFill s).modEp 0 fun x => { x with cur := x.cur ++ (s.ce.src.drop s.ce.pos.toNat).take m })
    running selected (by simpa using on) (by simpa using bank)
  refine ⟨3 + (k + 7), by omega, ?_⟩
  rw [fillBankCode, List.append_assoc] at fill
  rw [State.bankSent_eq]
  exact fill.trans (bytes.trans close)

theorem cwDone_of_short {p : Params} {rem : Byte} (short : rem.toNat < 32) :
    cwDone p (rem - BitVec.ofNat 8 rem.toNat) (BitVec.ofNat 8 rem.toNat) = true := by
  have ne : rem.toNat ≠ Config.ep0Size := short.ne
  simp [cwDone, ne]

theorem cwDone_of_full {p : Params} (zlp : p.zlpAfterFull = true) (rem : Byte) :
    cwDone p rem (BitVec.ofNat 8 32) = false := by
  simp [cwDone, zlp, Config.ep0Size]

/-- Fewer than 32 bytes left: the last bank, DONE. -/
theorem linesLead_cwLast (ls : List Line) {s : State} (running : s.halted = false) (selected : s.epSel = 0)
    (noOut : (s.ep 0).rxout = false) (on : (s.ep 0).en = true)
    (bank : (s.ep 0).committed.length < bankCount (s.ep 0).banks)
    (room : (s.ep 0).cur.length + s.ce.rem.toNat ≤ (s.ep 0).size) (short : s.ce.rem.toNat < 32) :
    ∃ k, k ≤ 107 ∧ LinesLead k (.cwWait :: ls) s ls { s.bankSent s.ce.rem.toNat with ret := .done } := by
  obtain ⟨k, hk, lead⟩ := linesLead_cwBank ls running selected noOut on bank room (by omega)
  rw [cwDone_of_short short, if_pos rfl] at lead
  exact ⟨k + 1, by omega, lead.trans (LinesLead.variables (ls := [.ret .done]) rfl ls (by exact running))⟩

/-- 32 or more left: a full bank, and the hold again (ZLP_AFTER_FULL). -/
theorem linesLead_cwFull (ls : List Line) {s : State} (running : s.halted = false) (selected : s.epSel = 0)
    (noOut : (s.ep 0).rxout = false) (on : (s.ep 0).en = true)
    (bank : (s.ep 0).committed.length < bankCount (s.ep 0).banks) (room : (s.ep 0).cur.length + 32 ≤ (s.ep 0).size)
    (full : 32 ≤ s.ce.rem.toNat) (zlp : s.params.zlpAfterFull = true) :
    ∃ k, k ≤ 107 ∧ LinesLead k (.cwWait :: ls) s (.cwWait :: ls) (setPhase .cwWait (s.bankSent 32)) := by
  obtain ⟨k, hk, lead⟩ := linesLead_cwBank ls running selected noOut on bank room (by omega)
  rw [cwDone_of_full zlp, if_neg (by simp)] at lead
  exact ⟨k + 1, by omega,
    lead.trans (LinesLead.variables (ls := [.setPhase .cwWait]) rfl (.cwWait :: ls) (by exact running))⟩

/-- With one bank, now committed, and no OUT the CPU holds there. -/
theorem held_cwFull {s : State} (noOut : (s.ep 0).rxout = false) (one : (s.ep 0).banks = .one) :
    held .cwWait (setPhase .cwWait (s.bankSent 32)) = true := by
  have ep : (setPhase .cwWait (s.bankSent 32)).ep 0 =
      Endpoint.sendBytes ((s.ce.src.drop s.ce.pos.toNat).take 32) (s.ep 0) := State.ep_modEp s 0 0 _
  simp [held, ep, Endpoint.sendBytes, Endpoint.txrdy, noOut, one, bankCount]

theorem State.park_epIsr {s : State} (hc : s.ctx = .epIsr) (ls : List Line) :
    s.park ls = s.atIsrPc (ls ++ s.isrPc) := by
  simp only [State.park, State.atIsrPc, hc]

/-! ## CTRL_FIFO_WRITE as an operation -/

theorem perform_epIsr_holds {k : Nat} {l : Line} {ls ls' : List Line} {s t : State} (running : s.halted = false)
    (hc : s.ctx = .epIsr) (h : LinesLead k ls s (l :: ls') t) (hk : k < lineBound) (waits : held l t = true) :
    perform ls s = t.atIsrPc (l :: ls' ++ s.isrPc) := by
  have hrun := h.holds hk waits
  have frame := runLines_frame lineBound ls s
  rw [hrun] at frame
  rw [perform_parked running hrun, State.park_epIsr (frame.ctx.trans hc), frame.isrPc]

theorem held_cwWait {s : State} (noOut : (s.ep 0).rxout = false) (noBank : (s.ep 0).txrdy = false) :
    held .cwWait s = true := by
  simp [held, noOut, noBank]

theorem ControlEngine.advances_starts (src : List Byte) (len m : Byte) (ce : ControlEngine) :
    ControlEngine.advances m (ControlEngine.starts src len ce) =
      { phase := .cwFill, src := src, pos := m, rem := len - m, lastN := m } := by
  simp [ControlEngine.advances, ControlEngine.starts]

/-- The first bank, from the start of the data. -/
theorem State.bankSent_starts (s : State) (src : List Byte) (len : Byte) (m : Nat) :
    (s.cwStarts src len).bankSent m =
      { s.setEp 0 (Endpoint.sendBytes (src.take m) (s.ep 0)) with
        ce := { phase := .cwFill, src := src, pos := BitVec.ofNat 8 m, rem := len - BitVec.ofNat 8 m,
                lastN := BitVec.ofNat 8 m } } :=
  congrArg (fun ce => { s.setEp 0 (Endpoint.sendBytes (src.take m) (s.ep 0)) with ce := ce })
    (ControlEngine.advances_starts src len _ s.ce)

/-- Settles O33: from the first hold, aborted, held, the last bank, or a full one. -/
theorem ctrlFifoWriteStarts : Obligations.CtrlFifoWriteStarts := by
  intro src len s running selected inside
  have start := linesLead_cwStart src len [] running
  refine ⟨fun out => ?aborted, fun noOut noBank hc => ?held, fun noOut on bank room short => ?last,
    fun noOut on one empty room full zlp hc => ?full⟩ <;> refine congrArg Host.Outcome.next ?_
  case aborted =>
    exact perform_done running ((start.trans (linesLead_cwAbort [] (by exact running) selected out)).ends (by decide))
  case held => exact perform_epIsr_holds running hc start (by decide) (held_cwWait noOut noBank)
  case last =>
    obtain ⟨k, hk, last⟩ := linesLead_cwLast [] (s := s.cwStarts src len) running selected
      noOut on bank room short
    have remaining : (s.cwStarts src len).ce.rem = len := rfl
    rw [remaining, State.bankSent_starts, BitVec.ofNat_toNat, BitVec.setWidth_eq, BitVec.sub_self] at last
    exact perform_done running ((start.trans last).ends (by rw [lineBound]; omega))
  case full =>
    have free : (s.ep 0).committed.length < bankCount (s.ep 0).banks := by rw [empty, one]; decide
    obtain ⟨k, hk, full⟩ := linesLead_cwFull [] (s := s.cwStarts src len) running selected
      noOut on free room full zlp
    have whole := perform_epIsr_holds running hc (start.trans full) (by rw [lineBound]; omega) (held_cwFull noOut one)
    rw [State.bankSent_starts, Endpoint.sendBytes, empty] at whole
    exact whole

/-! ## CTRL_FIFO_WRITE from its hold -/

/-- In EP_ISR a run of its lines is a number of steps (log 6). -/
theorem runSteps_of_linesLead {k : Nat} {ls ls' rest : List Line} {s t : State} (hc : s.ctx = .epIsr)
    (script : s.script = []) (hpc : s.isrPc = ls ++ rest) (own : ls.all epLine = true) (h : LinesLead k ls s ls' t) :
    ∃ n, runSteps n s = .next (t.atIsrPc (ls' ++ rest)) := by
  obtain ⟨n, steps⟩ := cpuSteps_of_runLines (rest := rest) (HandlerLine.of_all_epLine own) (by simp [hc]) script
    h.runLines
  rw [← hpc] at steps
  exact ⟨n, steps.runSteps⟩

/-- Settles O34: the hold is passed as at the start, and a full bank comes back to it. -/
theorem ctrlFifoWriteContinues : Obligations.CtrlFifoWriteContinues := by
  intro s rest n running hc script hpc selected zlp
  have steps {k : Nat} {ls : List Line} {t : State} (h : LinesLead k [.cwWait] s ls t) :=
    runSteps_of_linesLead (rest := rest) hc script hpc rfl h
  refine ⟨fun out => steps (linesLead_cwAbort [] running selected out), fun noOut on one empty clear size hn => ?_⟩
  have free : (s.ep 0).committed.length < bankCount (s.ep 0).banks := by rw [empty, one]; decide
  have sent (bytes : List Byte) := Endpoint.sendBytes_of_clear bytes empty clear
  refine ⟨fun short => ?last, fun full => ?full⟩
  case last =>
    have hn : n = s.ce.rem.toNat := by omega
    obtain ⟨k, _, last⟩ := linesLead_cwLast [] running selected noOut on free
      (by rw [clear, size, List.length_nil]; omega) (by omega)
    rw [State.bankSent, State.modEp, sent, ControlEngine.advances, BitVec.ofNat_toNat, BitVec.setWidth_eq,
      BitVec.sub_self] at last
    subst hn
    exact steps last
  case full =>
    obtain ⟨k, _, lead⟩ := linesLead_cwFull [] running selected noOut on free (by rw [clear, size]; decide) (by omega)
      zlp
    rw [State.bankSent, State.modEp, sent, ControlEngine.advances] at lead
    exact steps lead

/-! ## GET_DESCRIPTOR (R237) -/

/-- A request's handler reads its operand bytes and comes to its body (R232, 30_encoding.md R116). -/
theorem linesLead_request {r : Request} {s : State} (running : s.halted = false) (hr : r ≠ .fatal) :
    LinesLead (operandBytes r).length (dispatchCode s.params r) s
      (handlerBody s.params r (operandsOf r s.req) ++ [.setPhase .idle]) s := fun n => by
  rw [dispatchCode_of_returns hr, Nat.add_comm, runLines_request n r _ s running]

/-- GET_DESCRIPTOR's body searches for the pair of wValue and wIndex. -/
theorem getDescriptor_code (p : Params) (bm br : Byte) (args : SetupArgs) :
    handlerBody p .getDescriptor (operandsOf .getDescriptor (.ofFields bm br args)) =
      getDescriptorCode p args.wValue args.wIndex :=
  congrArg₂ (getDescriptorCode p) (halfOfBytes_lo_hi args.wValue) (halfOfBytes_lo_hi args.wIndex)

theorem descSearch_of_absent {p : Params} {v x : Half}
    (absent : ∀ d ∈ p.descTable, ¬(d.value = v ∧ d.index = x)) : descSearch p v x = none := by
  rw [descSearch, descSearchFrom_eq_findIdx, Option.map_eq_none_iff, List.findIdx?_eq_none_iff]
  exact fun d hd => decide_eq_false (absent d hd)

theorem descSearch_of_first {p : Params} {before after : List DescriptorEntry} {d : DescriptorEntry}
    (table : p.descTable = before ++ d :: after)
    (first : ∀ d' ∈ before, ¬(d'.value = d.value ∧ d'.index = d.index)) :
    descSearch p d.value d.index = some before.length := by
  have skipped : before.findIdx? (entryHasPair d.value d.index) = none :=
    List.findIdx?_eq_none_iff.mpr fun d' hd' => decide_eq_false (first d' hd')
  have found : entryHasPair d.value d.index d = true := decide_eq_true ⟨rfl, rfl⟩
  rw [descSearch, descSearchFrom_eq_findIdx, table, List.findIdx?_append, skipped, List.findIdx?_cons, if_pos found]
  simp

theorem descData_of_table {p : Params} {before after : List DescriptorEntry} {d : DescriptorEntry}
    (table : p.descTable = before ++ d :: after) : descData p before.length = d.data := by
  simp [descData, table]

/-- GET_DESCRIPTOR's length is read byte by byte, and its data handed to CTRL_FIFO_WRITE. -/
theorem linesLead_descLength (i : Nat) (ls : List Line) {bm br : Byte} {args : SetupArgs} {s : State}
    (running : s.halted = false) (req : s.req = .ofFields bm br args) :
    LinesLead 2 (.descLength i [] :: ls) s
      (ctrlFifoWriteCode (descData s.params i) (BitVec.ofNat 8 (transferLength args.wLength (descData s.params i)))
        ++ ls)
      s := by
  have low := LinesLead.line (l := .descLength i []) (ls := ls) running rfl rfl (by simp)
  have high := LinesLead.line (l := .descLength i [args.wLength.lo]) (ls := ls) running rfl rfl (by simp)
  rw [lineStep, req] at low high
  have length : halfOfBytes args.wLength.lo args.wLength.hi = args.wLength := halfOfBytes_lo_hi _
  rw [← length]
  exact low.trans high

/-- GET_DESCRIPTOR at the first hold, with `n` bytes of `data` to send and its packet in `req`. -/
def State.descriptorStarts (s : State) (recipient : BitVec 5) (args : SetupArgs) (data : List Byte) (n : Nat) : State :=
  (withRequest (.getDescriptor recipient args) s).cwStarts data (BitVec.ofNat 8 n)

/-- GET_DESCRIPTOR of a table entry up to CTRL_FIFO_WRITE's hold, with the packet in `req`. -/
theorem linesLead_getDescriptor {recipient : BitVec 5} {args : SetupArgs} {s : State}
    {before after : List DescriptorEntry} {d : DescriptorEntry} (running : s.halted = false)
    (table : s.params.descTable = before ++ d :: after) (value : d.value = args.wValue) (index : d.index = args.wIndex)
    (first : ∀ d' ∈ before, ¬(d'.value = args.wValue ∧ d'.index = args.wIndex)) :
    LinesLead 10 (dispatchCode s.params .getDescriptor) (withRequest (.getDescriptor recipient args) s)
      [.cwWait, .setPhase .idle]
      (s.descriptorStarts recipient args d.data (transferLength args.wLength d.data)) := by
  have request := linesLead_request (r := .getDescriptor) (s := withRequest (.getDescriptor recipient args) s) running
    (by decide)
  have found : descSearch s.params args.wValue args.wIndex = some before.length :=
    value ▸ index ▸ descSearch_of_first table (by rwa [value, index])
  have code : handlerBody s.params .getDescriptor
      (operandsOf .getDescriptor (withRequest (.getDescriptor recipient args) s).req) =
        [.descLength before.length []] := by
    refine (getDescriptor_code s.params (bmOfFields true 0 recipient) 0x06 args).trans ?_
    rw [getDescriptorCode, found]
  have length := linesLead_descLength before.length [.setPhase .idle] (s := withRequest (.getDescriptor recipient
    args) s)
    running rfl
  have data : descData (withRequest (.getDescriptor recipient args) s).params before.length = d.data :=
    descData_of_table table
  rw [data] at length
  have params : (withRequest (.getDescriptor recipient args) s).params = s.params := rfl
  rw [params, code] at request
  exact request.trans (length.trans (linesLead_cwStart d.data _ [.setPhase .idle] (by exact running)))

theorem runRequest_running {i : Instr} {r : Request} {s : State} (running : s.halted = false) :
    runRequest i r s = perform (dispatchCode s.params r) (withRequest i s) := cpuOp_running running _

/-- DISPATCH's last line. -/
theorem linesLead_dispatchEnd {s : State} (running : s.halted = false) :
    LinesLead 1 [.setPhase .idle] s [] (setPhase .idle s) :=
  LinesLead.variables (ls := [.setPhase .idle]) rfl [] running

/-- Settles O39: an absent pair's two lines, or CTRL_FIFO_WRITE of the entry's data and then DISPATCH's end. -/
theorem getDescriptor : Obligations.GetDescriptor := by
  intro recipient args s running selected
  refine ⟨fun absent => ?absent, fun before after d n table value index first hn => ?found⟩
  case absent =>
    have code : handlerBody s.params .getDescriptor
        (operandsOf .getDescriptor (withRequest (.getDescriptor recipient args) s).req) = [.stall, .emitDiag
        .noDescriptor] := by
      refine (getDescriptor_code s.params (bmOfFields true 0 recipient) 0x06 args).trans ?_
      rw [getDescriptorCode, descSearch_of_absent absent]
    have body := runLines_straight (ls := [.stall, .emitDiag .noDescriptor])
      (s := withRequest (.getDescriptor recipient args) s) rfl running
    have request := runRequest_returns (i := .getDescriptor recipient args) running (by decide) body code running
      (by decide)
    refine (congrArg Host.Outcome.next request).trans ?_
    simp only [afterLines, List.foldl, lineStep, portStall]
    have selected' : (withRequest (.getDescriptor recipient args) s).epSel = 0 := selected
    rw [selected']
    rfl
  case found =>
    have start := linesLead_getDescriptor (recipient := recipient) running table value index first
    have length : transferLength args.wLength d.data = n := hn.symm
    have small : n ≤ 255 := by omega
    have toNat : (BitVec.ofNat 8 n).toNat = n := toNat_eq_iff.mpr ⟨by omega, rfl⟩
    rw [length] at start
    refine ⟨fun out => ?aborted, fun noOut noBank hc => ?waits, fun on noOut one empty clear size => ?_⟩
    case aborted =>
      have abort := linesLead_cwAbort [.setPhase .idle] (s := s.descriptorStarts recipient args d.data n)
        running selected out
      have done := (start.trans (abort.trans (linesLead_dispatchEnd (by exact running)))).ends (by decide)
      exact congrArg Host.Outcome.next ((runRequest_running running).trans (perform_done running done))
    case waits =>
      have hold := perform_epIsr_holds (s := withRequest (.getDescriptor recipient args) s) running hc start (by decide)
        (held_cwWait noOut noBank)
      exact congrArg Host.Outcome.next ((runRequest_running running).trans hold)
    have free : (s.ep 0).committed.length < bankCount (s.ep 0).banks := by rw [empty, one]; decide
    have room (m : Nat) (fits : m ≤ 32) : (s.ep 0).cur.length + m ≤ (s.ep 0).size := by
      rw [clear, size, List.length_nil]
      omega
    have sent (m : Nat) : (s.descriptorStarts recipient args d.data n).bankSent m = _ :=
      State.bankSent_starts (withRequest (.getDescriptor recipient args) s) d.data (BitVec.ofNat 8 n) m
    have bytes (m : Nat) : Endpoint.sendBytes (d.data.take m) ((withRequest (.getDescriptor recipient args) s).ep 0) = _ :=
      Endpoint.sendBytes_of_clear (d.data.take m) empty clear
    refine ⟨fun short => ?last, fun full zlp hc => ?full⟩
    case last =>
      have remaining : (s.descriptorStarts recipient args d.data n).ce.rem.toNat = n := toNat
      obtain ⟨k, hk, last⟩ := linesLead_cwLast [.setPhase .idle] (s := s.descriptorStarts recipient args d.data n)
        running selected noOut on free (by rw [remaining]; exact room n short.le) (by rwa [remaining])
      have done := (start.trans (last.trans (linesLead_dispatchEnd (by exact running)))).ends (by rw [lineBound]; omega)
      rw [remaining, sent, bytes, BitVec.sub_self] at done
      exact congrArg Host.Outcome.next ((runRequest_running running).trans (perform_done (by exact running) done))
    case full =>
      have remaining : BitVec.ofNat 8 n - BitVec.ofNat 8 32 = BitVec.ofNat 8 (n - 32) := by
        apply BitVec.eq_of_toNat_eq
        simp only [BitVec.toNat_sub, BitVec.toNat_ofNat]
        omega
      obtain ⟨k, hk, lead⟩ := linesLead_cwFull [.setPhase .idle] (s := s.descriptorStarts recipient args d.data n)
        running selected noOut on free (room 32 (Nat.le_refl _)) (toNat.symm ▸ full) zlp
      have hold := perform_epIsr_holds (s := withRequest (.getDescriptor recipient args) s) running hc
        (start.trans lead) (by rw [lineBound]; omega) (held_cwFull noOut one)
      rw [sent, bytes, remaining] at hold
      exact congrArg Host.Outcome.next ((runRequest_running running).trans hold)

end Sys2Proof.Machine
end

section
/-! PROOF. The requests with a hold of one line, SET_ADDRESS and GET_REPORT (42_control.md R233, R239, R243): the run
up to `waitTxrdy`, where the CPU holds or goes on. -/

namespace Sys2Proof.Machine

open Sys2Proof

/-! ## The hold on TXRDY[0] -/

theorem held_waitTxrdy {s : State} (noBank : (s.ep 0).txrdy = false) : held .waitTxrdy s = true := by
  simp [held, noBank]

/-- With a bank free the hold is one line. -/
theorem linesLead_waitTxrdy (ls : List Line) {s : State} (running : s.halted = false) (bank : (s.ep 0).txrdy = true) :
    LinesLead 1 (.waitTxrdy :: ls) s ls s :=
  LinesLead.line (l := .waitTxrdy) running (by simp [held, bank]) rfl (by simp)

theorem Endpoint.txrdy_iff (x : Endpoint) :
    x.txrdy = true ↔ x.en = true ∧ x.committed.length < bankCount x.banks := by
  simp [Endpoint.txrdy]

/-- A hold of a handler is no step of the CPU (R6). -/
theorem runSteps_of_held {s : State} {l : Line} {ls : List Line} (handler : s.ctx ≠ .main) (running : s.halted = false)
    (script : s.script = []) (hpc : s.isrPc = l :: ls) (waits : held l s = true) (n : Nat) :
    runSteps n s = .next s := by
  have idle : step s = .next s := by
    rw [step_of_script_nil script, cpuStep_in_handler handler running, isrStep_held hpc waits]
  induction n with
  | zero => rfl
  | succ n ih => rw [runSteps_of_step n idle, ih]

/-! ## SET_ADDRESS (R233) -/

theorem addrOf_lo (h : Half) : addrOf h.lo = h.extractLsb' 0 7 := featureEpOf_lo h

/-- SET_ADDRESS with the status packet committed, before its hold. -/
def State.addressStarts (s : State) (recipient : BitVec 5) (args : SetupArgs) : State :=
  setPhase .waitAddr ((withRequest (.setAddress recipient args) s).modEp 0 Endpoint.commitOrDrop)

/-- What SET_ADDRESS runs from its hold on. -/
def programAddress (a : DevAddr) : List Line := [.waitTxrdy, .setDevaddr a, .setPhase .idle]

theorem linesLead_setAddress (recipient : BitVec 5) (args : SetupArgs) {s : State} (running : s.halted = false)
    (selected : s.epSel = 0) (room : (s.ep 0).hasRoom) :
    LinesLead 3 (dispatchCode s.params .setAddress) (withRequest (.setAddress recipient args) s)
      (programAddress (args.wValue.extractLsb' 0 7)) (s.addressStarts recipient args) := by
  have request := linesLead_request (r := .setAddress) (s := withRequest (.setAddress recipient args) s) running
    (by decide)
  have commit := linesLead_commit (.setPhase .waitAddr :: programAddress (args.wValue.extractLsb' 0 7))
    (s := withRequest (.setAddress recipient args) s) running selected room
  rw [← addrOf_lo] at commit ⊢
  exact request.trans (commit.trans (LinesLead.variables (ls := [.setPhase .waitAddr]) rfl _ (by exact running)))

theorem State.addressStarts_ep (s : State) (recipient : BitVec 5) (args : SetupArgs) :
    (s.addressStarts recipient args).ep 0 = (s.ep 0).commitOrDrop := State.ep_modEp s 0 0 _

theorem exec_setAddress_holds (recipient : BitVec 5) (args : SetupArgs) {s : State} (running : s.halted = false)
    (hc : s.ctx = .epIsr) (selected : s.epSel = 0) (room : (s.ep 0).hasRoom)
    (noBank : (s.ep 0).commitOrDrop.txrdy = false) :
    exec (.setAddress recipient args) s = .next ((s.addressStarts recipient args).atIsrPc
      (programAddress (args.wValue.extractLsb' 0 7) ++ s.isrPc)) := by
  have hold := perform_epIsr_holds (s := withRequest (.setAddress recipient args) s) running hc
    (linesLead_setAddress recipient args running selected room) (by decide)
    (held_waitTxrdy (by rw [State.addressStarts_ep, noBank]))
  exact congrArg Host.Outcome.next ((runRequest_running running).trans hold)

/-- The host has taken the packet `pkt` of endpoint `e` and left `rest`. -/
def State.packetTaken (s : State) (e : EpNum) (pkt : List Byte) (rest : List (List Byte)) : State :=
  hostSees e (.data pkt) (s.modEp e fun x => { x with committed := rest })

/-- The host's IN leaves the CPU where it stands, and the address; the packet `pkt` is seen. -/
structure TakenFrom (s : State) (e : EpNum) (pkt : List Byte) (t : State) : Prop where
  ctx : t.ctx = s.ctx
  halted : t.halted = s.halted
  script : t.script = s.script
  isrPc : t.isrPc = s.isrPc
  ce : t.ce = s.ce
  devAddr : t.devAddr = s.devAddr
  hostRx : t.hostRx = s.hostRx ++ [(e, .data pkt)]

theorem State.packetTaken_from (s : State) (e : EpNum) (pkt : List Byte) (rest : List (List Byte)) :
    TakenFrom s e pkt (s.packetTaken e pkt rest) := ⟨rfl, rfl, rfl, rfl, rfl, rfl, rfl⟩

theorem State.packetTaken_ep (s : State) (e : EpNum) (pkt : List Byte) (rest : List (List Byte)) :
    (s.packetTaken e pkt rest).ep e = { s.ep e with committed := rest } :=
  (State.ep_modEp s e e fun x => { x with committed := rest }).trans (if_pos rfl)

/-- The host takes the packet at the head of an endpoint it reaches (40_port.md R174). -/
theorem exec_hIn_data {e : EpNum} {s : State} {pkt : List Byte} {rest : List (List Byte)} (attached : s.attached = true)
    (on : (s.ep e).en = true) (noStall : (s.ep e).stallReq = false) (head : (s.ep e).committed = pkt :: rest) :
    exec (.hIn (if s.adden then s.devAddr else 0) e) s =
      .next (s.packetTaken e pkt rest) := by
  have reaches : s.answersTo (if s.adden then s.devAddr else 0) = true := beq_self_eq_true _
  refine next_ifAttached attached ?_
  rw [hostIn, reaches, on, noStall, head]
  rfl

/-- SET_ADDRESS where it holds. -/
def State.addressHolds (s : State) (recipient : BitVec 5) (args : SetupArgs) : State :=
  (s.addressStarts recipient args).atIsrPc (programAddress (args.wValue.extractLsb' 0 7) ++ s.isrPc)

/-- SET_ADDRESS up to its hold changes nothing of what the host sees but the packet. -/
theorem State.addressHolds_keeps (s : State) (recipient : BitVec 5) (args : SetupArgs) :
    (s.addressHolds recipient args).ctx = s.ctx ∧ (s.addressHolds recipient args).halted = s.halted ∧
      (s.addressHolds recipient args).script = s.script ∧ (s.addressHolds recipient args).devAddr = s.devAddr ∧
      (s.addressHolds recipient args).adden = s.adden ∧ (s.addressHolds recipient args).attached = s.attached ∧
      (s.addressHolds recipient args).hostRx = s.hostRx := by
  simp only [State.addressHolds, State.addressStarts, State.atIsrPc, setPhase, State.modEp, State.setEp, withRequest,
    and_self]

/-- Once the host has taken the packet the address is programmed in three steps. -/
theorem runSteps_programAddress {a : DevAddr} {rest : List Line} {s : State} (handler : s.ctx ≠ .main)
    (running : s.halted = false) (script : s.script = []) (hpc : s.isrPc = programAddress a ++ rest)
    (bank : (s.ep 0).txrdy = true) :
    runSteps 3 s = .next { s with devAddr := a, adden := true, ce := { s.ce with phase := .idle }, isrPc := rest } := by
  have wait := CpuSteps.line (l := .waitTxrdy) (ls := .setDevaddr a :: .setPhase .idle :: rest) handler running script
    (by simp [held, bank])
  have address := CpuSteps.line (l := .setDevaddr a) (ls := .setPhase .idle :: rest) handler running script rfl
  have phase := CpuSteps.line (s := portSetDevaddr a s) (l := .setPhase .idle) (ls := rest) handler running script rfl
  have start : s.atIsrPc (programAddress a ++ rest) = s := by rw [← hpc]; rfl
  have steps := (wait.trans (address.trans phase)).runSteps
  rwa [← start]

/-- Settles O35: the run to the hold, the host's IN there, and the three lines behind it. -/
theorem setAddress : Obligations.SetAddress := by
  intro recipient args s running hc selected
  refine ⟨fun on one empty => ?taken, fun off => ?dropped, fun on free => ?noHold⟩
  case taken =>
    have committed : (s.ep 0).commitOrDrop = { s.ep 0 with committed := [(s.ep 0).cur], cur := [] } := by
      rw [Endpoint.commitOrDrop, if_pos on, Endpoint.commitBank, empty]
      rfl
    have ep : (s.addressHolds recipient args).ep 0 = { s.ep 0 with committed := [(s.ep 0).cur], cur := [] } :=
      (State.addressStarts_ep s recipient args).trans committed
    have noBank : (s.ep 0).commitOrDrop.txrdy = false := by simp [committed, Endpoint.txrdy, one, bankCount]
    have taken := (s.addressHolds recipient args).packetTaken_from 0 (s.ep 0).cur []
    obtain ⟨ctx, halted, scripted, devAddr, adden, att, hostRx⟩ := s.addressHolds_keeps recipient args
    have handler : (s.addressHolds recipient args).ctx ≠ .main := by simp [ctx, hc]
    refine ⟨s.addressHolds recipient args,
      exec_setAddress_holds recipient args running hc selected (fun _ => by simp [empty, one, bankCount]) noBank,
      ?state,
      fun script n => ?waits, fun attached noStall script =>
        ⟨(s.addressHolds recipient args).packetTaken 0 (s.ep 0).cur [], ?takes, ?sees, ?address, ?programs⟩⟩
    case state =>
      have ep' : ((withRequest (.setAddress recipient args) s).ep 0).commitOrDrop = _ := committed
      rw [State.addressHolds, State.addressStarts, State.modEp, ep']
      rfl
    case waits =>
      have waits : held .waitTxrdy (s.addressHolds recipient args) = true :=
        held_waitTxrdy (by rw [ep, ← committed]; exact noBank)
      exact runSteps_of_held handler (halted.trans running) (scripted.trans script) rfl waits n
    case takes =>
      have takes := exec_hIn_data (e := 0) (att.trans attached) (by rw [ep]; exact on) (by rw [ep]; exact noStall)
        (congrArg Endpoint.committed ep)
      rwa [adden, devAddr] at takes
    case sees => rw [taken.hostRx, hostRx]
    case address => rw [taken.devAddr, devAddr]
    case programs =>
      have bank : (((s.addressHolds recipient args).packetTaken 0 (s.ep 0).cur []).ep 0).txrdy = true := by
        rw [State.packetTaken_ep, ep, Endpoint.txrdy_iff]
        exact ⟨on, bankCount_pos _⟩
      have steps := runSteps_programAddress (taken.ctx ▸ handler) (taken.halted.trans (halted.trans running))
        (taken.script.trans (scripted.trans script)) taken.isrPc bank
      rw [taken.ce] at steps
      exact steps
  case dropped =>
    have same : (s.ep 0).commitOrDrop = s.ep 0 := if_neg (by simp [off])
    refine (exec_setAddress_holds recipient args running hc selected (fun on => absurd (off.symm.trans on) (by simp))
      (same.symm ▸ Endpoint.txrdy_of_disabled off)).trans ?_
    rw [State.addressStarts, State.modEp_id (withRequest (.setAddress recipient args) s) 0 _ same]
    rfl
  case noHold =>
    have committed : (s.ep 0).commitOrDrop = (s.ep 0).commitBank := if_pos on
    have bank : ((s.addressStarts recipient args).ep 0).txrdy = true := by
      rw [State.addressStarts_ep, committed, Endpoint.txrdy_iff]
      exact ⟨on, by simpa [Endpoint.commitBank] using free⟩
    have programs := LinesLead.variables (ls := [.setDevaddr (args.wValue.extractLsb' 0 7), .setPhase .idle]) rfl []
      (s := s.addressStarts recipient args) running
    have done := ((linesLead_setAddress recipient args running selected fun _ => by omega).trans
      ((linesLead_waitTxrdy _ (by exact running) bank).trans programs)).ends (by simp [lineBound])
    refine congrArg Host.Outcome.next
      ((runRequest_running running).trans ((perform_done (by exact running) done).trans ?_))
    have committed' : ((withRequest (.setAddress recipient args) s).ep 0).commitOrDrop = _ := committed
    rw [State.addressStarts, State.modEp, committed']
    rfl

/-! ## GET_REPORT (R239) -/

/-- GET_REPORT before its hold. -/
def State.reportStarts (s : State) (recipient : BitVec 5) (args : SetupArgs) : State :=
  setPhase .waitReport (withRequest (.getReport recipient args) s)

theorem linesLead_getReport (recipient : BitVec 5) (args : SetupArgs) {s : State} (running : s.halted = false) :
    LinesLead 1 (dispatchCode s.params .getReport) (withRequest (.getReport recipient args) s)
      (.waitTxrdy :: (writeReportCode ++ [.commit, .setPhase .idle])) (s.reportStarts recipient args) := by
  have request := linesLead_request (r := .getReport) (s := withRequest (.getReport recipient args) s) running
    (by decide)
  exact request.trans (LinesLead.variables (ls := [.setPhase .waitReport]) rfl _ (by exact running))

/-- The eight report bytes into a bank with room, and its commit. -/
theorem linesLead_sendReport (ls : List Line) {s : State} (running : s.halted = false) (selected : s.epSel = 0)
    (on : (s.ep 0).en = true) (free : (s.ep 0).committed.length < bankCount (s.ep 0).banks)
    (room : (s.ep 0).cur.length + 8 ≤ (s.ep 0).size) :
    LinesLead 17 (writeReportCode ++ .commit :: ls) s ls
      (s.modEp 0 (Endpoint.sendBytes ((List.range 8).map (memRead s.report)))) := by
  have writes : LinesLead 16 (writeReportCode ++ .commit :: ls) s (.commit :: ls)
      (s.modEp 0 fun x => { x with cur := x.cur ++ (List.range 8).map (memRead s.report) }) := fun n => by
    have run := runLines_writeReport n (.commit :: ls) s running
    rw [selected] at run
    rw [Nat.add_comm, run on free room]
  have commit := linesLead_commit ls
    (s := s.modEp 0 fun x => { x with cur := x.cur ++ (List.range 8).map (memRead s.report) }) running selected
    fun _ => by simpa using free
  have sent : (s.modEp 0 fun x => { x with cur := x.cur ++ (List.range 8).map (memRead s.report) }).modEp 0
      Endpoint.commitOrDrop = s.modEp 0 (Endpoint.sendBytes ((List.range 8).map (memRead s.report))) := by
    rw [State.modEp_modEp, State.modEp, State.modEp, Endpoint.commitOrDrop, if_pos on]
    rfl
  rw [sent] at commit
  exact writes.trans commit

/-- Settles O40: past its hold the report is sent, and DISPATCH ends. -/
theorem getReport : Obligations.GetReport := by
  intro recipient args s running selected
  have start := linesLead_getReport recipient args running
  refine ⟨fun on free room => ?sent, fun noBank hc => ?waits⟩ <;>
    refine congrArg Host.Outcome.next ((runRequest_running running).trans ?_)
  case sent =>
    have wait := linesLead_waitTxrdy (writeReportCode ++ [.commit, .setPhase .idle])
      (s := s.reportStarts recipient args) running ((Endpoint.txrdy_iff _).mpr ⟨on, free⟩)
    have send := linesLead_sendReport [.setPhase .idle] (s := s.reportStarts recipient args)
      running selected on free room
    have done := (start.trans (wait.trans (send.trans (linesLead_dispatchEnd (by exact running))))).ends (by decide)
    exact perform_done running done
  case waits =>
    exact perform_epIsr_holds (s := withRequest (.getReport recipient args) s) running hc start (by decide)
      (held_waitTxrdy noBank)

end Sys2Proof.Machine
end

section
/-! PROOF. SEND (43_report.md R293) as a whole, and from its later polls on, where each line is a step of MAIN
(log 7). -/

namespace Sys2Proof.Machine

open Sys2Proof

/-! ## SEND as a whole -/

/-- SEND with `I` saved and cleared, the report endpoint selected and the frame read. -/
def State.sendOpens (s : State) : State :=
  { s with sendL := { s := s.ie, t0 := s.frame }, ie := false, epSel := s.params.reportEp }

theorem linesLead_sendOpens {s : State} (running : s.halted = false) (cfg : s.usbConfiguration ≠ 0) :
    LinesLead 5 sendCode s [.sendPoll] s.sendOpens := by
  have entry := LinesLead.line (l := .sendEntry) (ls := []) running rfl rfl (by simp)
  rw [lineStep, if_neg cfg] at entry
  exact entry.trans (LinesLead.variables (ls := [.saveI, .setI false, .selectReport, .sendReadFrame]) rfl [.sendPoll]
    running)

theorem linesLead_sendPoll {s : State} (running : s.halted = false) :
    LinesLead 1 [.sendPoll] s (sendPollNext s) s := by
  have poll := LinesLead.line (l := .sendPoll) (ls := []) running rfl rfl (by simp)
  rwa [lineStep, List.append_nil] at poll

/-- At once after the frame was read the budget is not used up (R294). -/
theorem expired_self {budget : Frame} (positive : budget ≠ 0) (f : Frame) : expired budget f f = false := by
  have : budget.toNat ≠ 0 := fun zero => positive (BitVec.eq_of_toNat_eq zero)
  simp [expired]
  omega

/-- Configured and within its budget SEND comes to its next poll (R293, R295). -/
theorem linesLead_sendPollAgain {s : State} (running : s.halted = false) (cfg : s.usbConfiguration ≠ 0)
    (inBudget : expired s.params.sendBudget s.sendL.t0 s.frame = false) :
    LinesLead 5 [.restoreI, .sendConfiguration] s [.sendPollAgain]
      { s with ie := false, epSel := s.params.reportEp } := by
  have restore := LinesLead.variables (ls := [.restoreI]) rfl [.sendConfiguration] running
  have configured := LinesLead.line (l := .sendConfiguration) (ls := []) (s := { s with ie := s.sendL.s })
    running rfl rfl (by simp)
  have budget := LinesLead.line (l := .sendExpired) (ls := []) (s := { s with ie := s.sendL.s })
    running rfl rfl (by simp)
  rw [lineStep, if_neg cfg] at configured
  rw [lineStep, inBudget, if_neg (by simp)] at budget
  exact restore.trans (configured.trans (budget.trans
    (LinesLead.variables (ls := [.setI false, .selectReport]) rfl [.sendPollAgain] (by exact running))))

theorem runLines_sendSuccess {s : State} (running : s.halted = false) (on : (s.ep s.epSel).en = true)
    (free : (s.ep s.epSel).committed.length < bankCount (s.ep s.epSel).banks)
    (room : (s.ep s.epSel).cur.length + 8 ≤ (s.ep s.epSel).size) :
    runLines 20 sendSuccessCode s =
      ({ s.modEp s.epSel (Endpoint.commitReport ((List.range 8).map (memRead s.report))) with
          idleCounter := 0, ie := s.sendL.s, ret := .sent 0 }, []) :=
  runLines_append_end (runLines_commitReport running on free room)
    (LinesLead.variables (ls := [.setIdleCounter 0, .restoreI, .ret (.sent SendResult.ok.code)]) rfl []
      (by exact running)).runLines

theorem State.park_main {s : State} (hm : s.ctx = .main) (ls : List Line) :
    s.park ls = { s with mainPc := ls ++ s.mainPc } := by
  simp only [State.park, hm]

/-- Settles O23: the entry's test, and then the first poll. -/
theorem send : Obligations.Send := by
  intro s running
  refine ⟨fun cfg => ?refused, fun cfg on free room => ?sent, fun cfg hm budget full => ?pauses⟩ <;>
    refine congrArg Host.Outcome.next ?_
  case refused =>
    have entry := LinesLead.line (l := .sendEntry) (ls := []) running rfl rfl (by simp)
    rw [lineStep, if_pos cfg] at entry
    exact perform_done running
      ((entry.trans (LinesLead.variables (ls := [.ret (.sent SendResult.notConfigured.code)]) rfl [] running)).ends
        (by decide))
  case sent =>
    have wral : (s.sendOpens.ep s.sendOpens.epSel).wral = true :=
      (Endpoint.wral_iff _).mpr ⟨on, free, Nat.lt_of_lt_of_le (Nat.lt_add_of_pos_right (by decide)) room⟩
    have poll := (linesLead_sendOpens running cfg).trans (linesLead_sendPoll (by exact running))
    rw [sendPollNext, if_pos wral] at poll
    have success := runLines_end_mono (n := 1018) (runLines_sendSuccess (s := s.sendOpens) running on free room)
      (by decide)
    exact perform_done running ((poll 1018).trans success)
  case pauses =>
    have wral : (s.sendOpens.ep s.sendOpens.epSel).wral = false := full
    have poll := (linesLead_sendOpens running cfg).trans (linesLead_sendPoll (by exact running))
    rw [sendPollNext, wral, if_neg (by simp)] at poll
    have again := poll.trans (linesLead_sendPollAgain (s := s.sendOpens) running cfg (expired_self budget s.frame))
    have stops := again.stops (by decide) (by simp [pauses])
    exact (perform_parked running stops).trans (State.park_main (by exact hm) _)

/-! ## MAIN line by line -/

/-- In MAIN, with nothing scheduled and no entry possible, the next line is one step (R6). -/
theorem runSteps_mainLine {s t : State} {l : Line} {ls : List Line} (n : Nat) (script : s.script = [])
    (hm : s.ctx = .main) (running : s.halted = false) (noEntry : s.mayEnter = false) (code : s.mainPc = l :: ls)
    (free : held l s = false) (leads : { (lineStep l s).1 with mainPc := (lineStep l s).2 ++ ls } = t) :
    runSteps (n + 1) s = runSteps n t :=
  runSteps_of_step n (step_mainLine script hm running noEntry (by rw [mainCode, code]) free leads)

/-- The endpoint with bytes added to the bank being filled. -/
def Endpoint.fillBytes (bytes : List Byte) (x : Endpoint) : Endpoint := { x with cur := x.cur ++ bytes }

/-- MAIN after the byte `b` is written to the selected endpoint, with the lines `ls` left. -/
def State.wrote (s : State) (bytes : List Byte) (ls : List Line) : State :=
  { s.modEp s.epSel (Endpoint.fillBytes bytes) with mainPc := ls }

theorem State.wrote_ep (s : State) (bytes : List Byte) (ls : List Line) :
    (s.wrote bytes ls).ep s.epSel = Endpoint.fillBytes bytes (s.ep s.epSel) :=
  (State.ep_modEp s _ _ _).trans (if_pos rfl)

theorem State.wrote_epPending (s : State) (bytes : List Byte) (ls : List Line) :
    (s.wrote bytes ls).epPending = s.epPending := by
  have ep : (s.wrote bytes ls).ep 0 = if 0 = s.epSel then Endpoint.fillBytes bytes (s.ep s.epSel) else s.ep 0 :=
    State.ep_modEp s s.epSel 0 (Endpoint.fillBytes bytes)
  rw [State.epPending, ep]
  split
  next selected => rw [← selected]; rfl
  next => rfl

theorem State.wrote_wrote (s : State) (bytes bytes' : List Byte) (ls ls' : List Line) :
    (s.wrote bytes ls).wrote bytes' ls' = s.wrote (bytes ++ bytes') ls' := by
  have twice : (s.modEp s.epSel (Endpoint.fillBytes bytes)).modEp s.epSel (Endpoint.fillBytes bytes') =
      s.modEp s.epSel (Endpoint.fillBytes (bytes ++ bytes')) := by
    rw [State.modEp_modEp]
    exact congrArg (s.modEp s.epSel) (funext fun x => by simp [Endpoint.fillBytes])
  rw [State.wrote, State.wrote, State.wrote, ← twice]
  rfl

/-- A byte of the report is read and written, two steps while `I` is 0. -/
theorem runSteps_reportWrite (n : Nat) (i : Fin 8) (ls : List Line) {s : State} (script : s.script = [])
    (hm : s.ctx = .main) (running : s.halted = false) (off : s.ie = false) (code : s.mainPc = .readReport i :: ls)
    (on : (s.ep s.epSel).en = true) (free : (s.ep s.epSel).committed.length < bankCount (s.ep s.epSel).banks)
    (room : (s.ep s.epSel).cur.length < (s.ep s.epSel).size) :
    runSteps (n + 2) s = runSteps n (s.wrote [memRead s.report i.val] ls) := by
  have noEntry := State.mayEnter_of_ie_off off
  have write := portFifoWrite_room (b := memRead s.report i.val)
    (s := { s with mainPc := .fifoWrite (memRead s.report i.val) :: ls }) on free room
  rw [runSteps_mainLine (n + 1) (t := { s with mainPc := .fifoWrite (memRead s.report i.val) :: ls }) script hm running
    noEntry code rfl rfl]
  exact runSteps_mainLine n script hm running (State.mayEnter_of_ie_off off) rfl rfl (by rw [lineStep, write]; rfl)

/-- The report's writes with room for them. -/
theorem runSteps_reportWrites (n : Nat) (ls : List Line) (is : List (Fin 8)) {s : State} (script : s.script = [])
    (hm : s.ctx = .main) (running : s.halted = false) (off : s.ie = false) (code : s.mainPc = is.map .readReport ++ ls)
    (on : (s.ep s.epSel).en = true) (free : (s.ep s.epSel).committed.length < bankCount (s.ep s.epSel).banks)
    (room : (s.ep s.epSel).cur.length + is.length ≤ (s.ep s.epSel).size) :
    runSteps (n + 2 * is.length) s = runSteps n (s.wrote (is.map fun i => memRead s.report i.val) ls) := by
  induction is generalizing s with
  | nil =>
    have code : s.mainPc = ls := code
    rw [State.wrote, State.modEp_id _ _ _ (by simp [Endpoint.fillBytes]), ← code]
    rfl
  | cons i is ih =>
    rw [List.length_cons] at room ⊢
    have code : s.mainPc = .readReport i :: (is.map .readReport ++ ls) := code
    have ep := s.wrote_ep [memRead s.report i.val] (is.map .readReport ++ ls)
    have rest := ih (s := s.wrote [memRead s.report i.val] (is.map .readReport ++ ls)) script hm running off rfl
      (ep.symm ▸ on) (ep.symm ▸ free) (ep.symm ▸ by simp [Endpoint.fillBytes]; omega)
    rw [Nat.mul_succ, ← Nat.add_assoc, runSteps_reportWrite _ i _ script hm running off code on free (by omega), rest,
      State.wrote_wrote]
    rfl

/-! ## SEND from its later polls (R293, R295) -/

/-- MAIN after SEND's report is committed and it has answered OK. -/
def State.reportSent (s : State) (ls : List Line) : State :=
  { s.modEp s.epSel (Endpoint.commitReport ((List.range 8).map (memRead s.report))) with
    idleCounter := 0, ie := s.sendL.s, ret := .sent 0, mainPc := ls }

/-- What SEND runs after the report's bytes. -/
def sendCloseCode : List Line := [.commitClr, .setIdleCounter 0, .restoreI, .ret (.sent SendResult.ok.code)]

/-- MAIN after SEND's bank is committed and SEND has answered OK. -/
def State.sendCloses (s : State) (ls : List Line) : State :=
  { s.modEp s.epSel (fun x => x.commitBank.clearDone) with
    idleCounter := 0, ie := s.sendL.s, ret := .sent 0, mainPc := ls }

/-- The commit makes no SETUP pending. -/
theorem State.sendCloses_epPending {s : State} (ls : List Line) (noEp : s.epPending = false) :
    (s.sendCloses ls).epPending = false := by
  have ep : (s.sendCloses ls).ep 0 = if 0 = s.epSel then (s.ep s.epSel).commitBank.clearDone else s.ep 0 :=
    State.ep_modEp s s.epSel 0 fun x => x.commitBank.clearDone
  rw [State.epPending, ep]
  split
  · rfl
  · exact noEp

theorem runSteps_sendClose (n : Nat) (ls : List Line) {s : State} (script : s.script = []) (hm : s.ctx = .main)
    (running : s.halted = false) (off : s.ie = false) (code : s.mainPc = sendCloseCode ++ ls)
    (noDev : s.devPending = false) (noEp : s.epPending = false) (on : (s.ep s.epSel).en = true)
    (free : (s.ep s.epSel).committed.length < bankCount (s.ep s.epSel).banks) :
    runSteps (n + 4) s = runSteps n (s.sendCloses ls) := by
  have committed := runSteps_mainLine (n + 3) (l := .commitClr) script hm running (State.mayEnter_of_ie_off off)
    code rfl rfl
  rw [lineStep, portCommitClr_room on free] at committed
  have counted := runSteps_mainLine (n + 2) (l := .setIdleCounter 0) (ls := [.restoreI, .ret (.sent 0)] ++ ls)
    (s := { s.modEp s.epSel (fun x => x.commitBank.clearDone) with
      mainPc := [.setIdleCounter 0, .restoreI, .ret (.sent 0)] ++ ls }) script hm running
    (State.mayEnter_of_ie_off off) rfl rfl rfl
  have restored := runSteps_mainLine (n + 1) (l := .restoreI) (ls := .ret (.sent 0) :: ls)
    (s := { s.modEp s.epSel (fun x => x.commitBank.clearDone) with
      idleCounter := 0, mainPc := [.restoreI, .ret (.sent 0)] ++ ls }) script hm running
    (State.mayEnter_of_ie_off off) rfl rfl rfl
  have answered := runSteps_mainLine n (l := .ret (.sent 0)) (ls := ls)
    (s := { s.modEp s.epSel (fun x => x.commitBank.clearDone) with
      idleCounter := 0, ie := s.sendL.s, mainPc := .ret (.sent 0) :: ls }) script hm running
    (State.mayEnter_of_nothing_pending noDev (State.sendCloses_epPending ls noEp)) rfl rfl rfl
  exact committed.trans (counted.trans (restored.trans answered))

/-- After the report is written and committed the count is 0, `I` is restored, and SEND answers OK. -/
theorem runSteps_sendSuccess (n : Nat) (ls : List Line) {s : State} (script : s.script = []) (hm : s.ctx = .main)
    (running : s.halted = false) (off : s.ie = false) (code : s.mainPc = sendSuccessCode ++ ls)
    (noDev : s.devPending = false) (noEp : s.epPending = false) (on : (s.ep s.epSel).en = true)
    (free : (s.ep s.epSel).committed.length < bankCount (s.ep s.epSel).banks)
    (room : (s.ep s.epSel).cur.length + 8 ≤ (s.ep s.epSel).size) :
    runSteps (n + 20) s = runSteps n (s.reportSent ls) := by
  have writes := runSteps_reportWrites (n + 4) (sendCloseCode ++ ls) (List.finRange 8) script hm running off code
    on free room
  have ep := s.wrote_ep ((List.range 8).map (memRead s.report)) (sendCloseCode ++ ls)
  have noEp' : (s.wrote ((List.range 8).map (memRead s.report)) (sendCloseCode ++ ls)).epPending = false :=
    (s.wrote_epPending _ _).trans noEp
  have close := runSteps_sendClose n ls (s := s.wrote ((List.range 8).map (memRead s.report)) (sendCloseCode ++ ls))
    script hm running off rfl noDev noEp' (ep.symm ▸ on) (ep.symm ▸ free)
  have sent : (s.wrote ((List.range 8).map (memRead s.report)) (sendCloseCode ++ ls)).sendCloses ls =
      s.reportSent ls := by
    have twice : (s.modEp s.epSel (Endpoint.fillBytes ((List.range 8).map (memRead s.report)))).modEp s.epSel
        (fun x => x.commitBank.clearDone) =
          s.modEp s.epSel (Endpoint.commitReport ((List.range 8).map (memRead s.report))) := State.modEp_modEp ..
    rw [State.reportSent, ← twice]
    rfl
  rw [← sent]
  exact writes.trans close

/-- MAIN in the interrupt window between two polls, with the saved `I`. -/
def State.inWindow (s : State) (ls : List Line) : State := { s with ie := s.sendL.s, mainPc := ls }

/-- A line of the window is one step where nothing is pending. -/
theorem runSteps_windowLine {s t : State} (n : Nat) {l : Line} {next ls : List Line} (script : s.script = [])
    (hm : s.ctx = .main) (running : s.halted = false) (noDev : s.devPending = false) (noEp : s.epPending = false)
    (free : held l (s.inWindow (l :: ls)) = false) (line : lineStep l (s.inWindow (l :: ls)) = (t, next)) :
    runSteps (n + 1) (s.inWindow (l :: ls)) = runSteps n { t with mainPc := next ++ ls } :=
  runSteps_mainLine n script hm running (State.mayEnter_of_nothing_pending noDev noEp) rfl free (by rw [line])

/-- Settles O24: one step a line from the poll on. -/
theorem sendResumes : Obligations.SendResumes := by
  intro s rest running hm off script code selected noDev noEp
  have noEntry := State.mayEnter_of_ie_off off
  have poll (n : Nat) {next : List Line} (h : sendPollNext s = next) :
      runSteps (n + 1) s = runSteps n { s with mainPc := next ++ rest } :=
    runSteps_mainLine n script hm running noEntry code rfl (by rw [lineStep, h])
  have window (n : Nat) (full : (s.ep s.epSel).wral = false) :
      runSteps (n + 2) s = runSteps n (s.inWindow (.sendConfiguration :: rest)) := by
    rw [poll (n + 1) (next := [.restoreI, .sendConfiguration]) (by rw [sendPollNext, full]; rfl)]
    exact runSteps_mainLine n script hm running noEntry rfl rfl rfl
  have line (n : Nat) {l : Line} {next : List Line} {t : State}
      (h : lineStep l (s.inWindow (l :: rest)) = (t, next)) (free : held l (s.inWindow (l :: rest)) = false) :=
    runSteps_windowLine n script hm running noDev noEp free h
  refine ⟨fun on free room => ?sent, fun full cfg => ?deconfigured, fun full cfg late => ?timeout,
    fun full cfg inBudget => ?again⟩
  case sent =>
    have wral : (s.ep s.epSel).wral = true :=
      (Endpoint.wral_iff _).mpr ⟨on, free, Nat.lt_of_lt_of_le (Nat.lt_add_of_pos_right (by decide)) room⟩
    rw [poll 20 (next := sendSuccessCode) (by rw [sendPollNext, wral]; rfl)]
    exact runSteps_sendSuccess 0 rest (s := { s with mainPc := sendSuccessCode ++ rest }) script hm
      running off rfl noDev noEp on free room
  case deconfigured =>
    have answers := line 1 (l := .sendConfiguration) (congrArg (Prod.mk _) (if_pos cfg)) rfl
    exact (window 2 full).trans (answers.trans (line 0 (l := .ret (.sent 1)) rfl rfl))
  case timeout =>
    have configured := line 2 (l := .sendConfiguration) (congrArg (Prod.mk _) (if_neg cfg)) rfl
    have answers := line 1 (l := .sendExpired) (congrArg (Prod.mk _) (if_pos late)) rfl
    exact (window 3 full).trans (configured.trans (answers.trans (line 0 (l := .ret (.sent 2)) rfl rfl)))
  case again =>
    have configured := line 3 (l := .sendConfiguration) (congrArg (Prod.mk _) (if_neg cfg)) rfl
    have goesOn := line 2 (l := .sendExpired) (congrArg (Prod.mk _) (if_neg (Bool.eq_false_iff.mp inBudget))) rfl
    have clears : runSteps 2 (s.inWindow (.setI false :: .selectReport :: .sendPollAgain :: rest)) = .next s := by
      have back : { s with ie := false, epSel := s.params.reportEp, mainPc := .sendPollAgain :: rest } = s := by
        rw [← off, ← selected, ← code]
      have clear := runSteps_windowLine 1 (l := .setI false) (ls := .selectReport :: .sendPollAgain :: rest) script hm
        running noDev noEp rfl rfl
      exact clear.trans
        (runSteps_mainLine 0 (l := .selectReport) (ls := .sendPollAgain :: rest) script hm running
          (State.mayEnter_of_ie_off rfl) rfl rfl back)
    exact (window 4 full).trans (configured.trans (goesOn.trans clears))

end Sys2Proof.Machine
end

section
/-! PROOF. EP_ISR as a whole (42_control.md R230 to R232): SETUP_INTAKE, and then the request that the packet spells.
The request's lines take so few lines from any state (`dispatchCode_runsWithin`) that those EP_ISR has run before them
do not matter; of the loop of CTRL_FIFO_WRITE this holds because every full bank takes 32 off `ce.rem`. -/

namespace Sys2Proof.Machine

open Sys2Proof

/-! ## How many lines a run of CTRL_FIFO_WRITE can take -/

/-- From no state with `ce.rem` = `r` does a run of `ls` take more than `n` lines. -/
def RemWithin (r : Byte) (n : Nat) (ls : List Line) : Prop :=
  ∀ s : State, s.ce.rem = r → ∀ k, n ≤ k → runLines k ls s = runLines n ls s

theorem RunsWithin.remWithin {n : Nat} {ls : List Line} (h : RunsWithin n ls) (r : Byte) : RemWithin r n ls :=
  fun s _ => h s

theorem RemWithin.mono {r : Byte} {m n : Nat} {ls : List Line} (h : RemWithin r m ls) (hmn : m ≤ n) :
    RemWithin r n ls := fun s hr k hk => (h s hr k (hmn.trans hk)).trans (h s hr n hmn).symm

/-- One line more than the lines behind it with those it puts in front of them, from the count it leaves. -/
theorem RemWithin.cons {r r' : Byte} {n : Nat} {l : Line} {ls : List Line} (ne : l ≠ .delay)
    (rem : ∀ s : State, s.ce.rem = r → (lineStep l s).1.ce.rem = r')
    (rest : ∀ s : State, s.ce.rem = r → RemWithin r' n ((lineStep l s).2 ++ ls)) : RemWithin r (n + 1) (l :: ls) := by
  intro s hr k hk
  obtain ⟨k, rfl⟩ := Nat.exists_eq_add_of_le' (Nat.le_of_add_left_le hk)
  have passed : (l == Line.delay) = false := beq_false_of_ne ne
  simp only [runLines, passed]
  split
  case isTrue stopped => rfl
  case isFalse runs => exact rest s hr _ (rem s hr) k (Nat.le_of_succ_le_succ hk)

/-- A line that puts nothing in front and leaves the count. -/
theorem RemWithin.skip {r : Byte} {n : Nat} {l : Line} {ls : List Line} (ne : l ≠ .delay)
    (rem : ∀ s : State, (lineStep l s).1.ce.rem = s.ce.rem) (next : ∀ s, (lineStep l s).2 = [])
    (rest : RemWithin r n ls) : RemWithin r (n + 1) (l :: ls) :=
  .cons ne (fun s hr => (rem s).trans hr) fun s _ => by rwa [next]

theorem cwBytes_remWithin {r : Byte} {n : Nat} {ls : List Line} (js : List Nat) (rest : RemWithin r n ls) :
    RemWithin r (n + 3 * js.length) (js.map .cwByte ++ ls) := by
  induction js with
  | nil => exact rest
  | cons j js ih =>
    refine .cons (n := n + 3 * js.length + 2) (by simp) (fun s hr => hr) fun s _ => ?_
    refine .cons (n := n + 3 * js.length + 1) (by simp) (fun s hr => hr) fun s _ => ?_
    simp only [lineStep, sourceCode]
    split
    · exact .skip (by simp) (fun s => congrArg ControlEngine.rem (portFifoWrite_same _ s).ce) (fun _ => rfl) ih
    · exact ih.mono (Nat.le_succ _)

/-- The end of a bank of `m` bytes, out of `r` left before it: DONE, or the hold again, which a full bank only comes
to. -/
theorem cwLoop_remWithin {r : Byte} {n m : Nat} {ls : List Line} (hm : m = min r.toNat 32) (rest : RunsWithin n ls)
    (again : 32 ≤ r.toNat → RemWithin (r - 32) n (.cwWait :: ls)) :
    RemWithin (r - BitVec.ofNat 8 m) (n + 2) (.cwLoop (BitVec.ofNat 8 m) :: ls) := by
  refine .cons (by simp) (fun s hr => hr) fun s hr => ?_
  simp only [lineStep]
  split
  case isTrue => exact .skip (by simp) (fun _ => rfl) (fun _ => rfl) (rest.remWithin _)
  case isFalse goesOn =>
    have full : 32 ≤ r.toNat := Nat.le_of_not_lt fun short => goesOn (by
      rw [hr, hm, Nat.min_eq_left short.le]
      exact cwDone_of_short short)
    obtain rfl : m = 32 := by omega
    exact .skip (by simp) (fun _ => rfl) (fun _ => rfl) (again full)

/-- A bank from the hold on. -/
theorem cwBank_remWithin {r : Byte} {n : Nat} {ls : List Line} (rest : RunsWithin n ls)
    (again : 32 ≤ r.toNat → RemWithin (r - 32) n (.cwWait :: ls)) : RemWithin r (n + 108) (.cwWait :: ls) := by
  have close (m : Nat) (hm : m = min r.toNat 32) : RemWithin r (n + 8) ([.cwAddPos (BitVec.ofNat 8 m),
      .cwSubRem (BitVec.ofNat 8 m), .cwSetLast (BitVec.ofNat 8 m), .commit, .cwLoop (BitVec.ofNat 8 m)] ++ ls) := by
    have commits : RemWithin (r - BitVec.ofNat 8 m) (n + 4) ([.cwSetLast (BitVec.ofNat 8 m), .commit,
        .cwLoop (BitVec.ofNat 8 m)] ++ ls) :=
      .skip (by simp) (fun _ => rfl) (fun _ => rfl) (.skip (by simp) (fun s => congrArg ControlEngine.rem
        (portCommit_same s).ce) (fun _ => rfl) (cwLoop_remWithin hm rest again))
    have counts : RemWithin r (n + 6) ([.cwSubRem (BitVec.ofNat 8 m), .cwSetLast (BitVec.ofNat 8 m), .commit,
        .cwLoop (BitVec.ofNat 8 m)] ++ ls) :=
      .cons (by simp) (fun _ hr => hr) fun s hr => .cons (by simp) (fun _ _ => congrArg (· - _) hr) fun _ _ => commits
    exact .cons (by simp) (fun _ hr => hr) fun s _ => .skip (by simp) (fun _ => rfl) (fun _ => rfl) counts
  have fill : RemWithin r (n + 105) (.cwFill :: ls) := by
    refine .cons (n := n + 104) (by simp) (fun _ hr => hr) fun s hr => ?_
    simp only [lineStep, fillBankCode, hr, List.append_assoc]
    have bytes := cwBytes_remWithin (List.range (min r.toNat 32)) (close _ rfl)
    rw [List.length_range] at bytes
    exact bytes.mono (by omega)
  refine .cons (n := n + 107) (by simp) (fun _ hr => hr) fun s _ => ?_
  simp only [lineStep]
  split
  case isTrue =>
    exact (RemWithin.skip (by simp) (fun _ => rfl) (fun _ => rfl) (rest.remWithin r)).mono (by omega)
  case isFalse =>
    exact (RemWithin.skip (by simp) (fun _ => rfl) (fun _ => rfl) fill).mono (by omega)

/-- From the hold on, with fewer than `32 * (q + 1)` bytes left: at most `q + 1` banks. -/
theorem cwWait_remWithin {n : Nat} {ls : List Line} (rest : RunsWithin n ls) (q : Nat) :
    ∀ r : Byte, r.toNat < 32 * (q + 1) → RemWithin r (n + 108 * (q + 1)) (.cwWait :: ls) := by
  induction q with
  | zero => exact fun r few => (cwBank_remWithin rest fun full => by omega).mono (by omega)
  | succ q ih =>
    intro r few
    have again (full : 32 ≤ r.toNat) : RemWithin (r - 32) (n + 108 * (q + 1)) (.cwWait :: ls) := by
      refine ih _ ?_
      have : (r - 32).toNat = r.toNat - 32 := BitVec.toNat_sub_of_le full
      omega
    exact cwBank_remWithin (rest.mono (Nat.le_add_right ..)) again

theorem cwWait_runsWithin {n : Nat} {ls : List Line} (rest : RunsWithin n ls) : RunsWithin (n + 864) (.cwWait :: ls) :=
  fun s => cwWait_remWithin rest 7 s.ce.rem s.ce.rem.isLt s rfl

/-! ## How many lines a request can take -/

/-- Lines that put nothing in front. -/
def putsNothing : Line → Bool
  | .select _ | .commit | .stall | .epReset | .epConfigure _ | .setDevaddr _ | .setPhase _ | .setUsbConfiguration _
  | .setIdleRate _ | .setIdleCounter _ | .setI _ | .emitDiag _ | .ret _ | .waitTxrdy | .cwSetSrc _ | .cwSetPos _
  | .cwSetRem _ | .fatalHalt _ => true
  | _ => false

theorem RunsWithin.putsNothing {n : Nat} {ls rest : List Line} (own : ls.all putsNothing = true)
    (h : RunsWithin n rest) :
    RunsWithin (n + ls.length) (ls ++ rest) := by
  induction ls with
  | nil => exact h
  | cons l ls ih =>
    rw [List.all_cons, Bool.and_eq_true] at own
    obtain ⟨ownLine, ownRest⟩ := own
    cases l
    case select | commit | stall | epReset | epConfigure | setDevaddr | setPhase | setUsbConfiguration | setIdleRate
        | setIdleCounter | setI | emitDiag | ret | waitTxrdy | cwSetSrc | cwSetPos | cwSetRem | fatalHalt =>
      exact .cons (by simp) fun _ => ih ownRest
    all_goals cases ownLine

theorem ctrlFifoWrite_runsWithin {n : Nat} {ls : List Line} (src : List Byte) (len : Byte) (rest : RunsWithin n ls) :
    RunsWithin (n + 868) (ctrlFifoWriteCode src len ++ ls) :=
  RunsWithin.putsNothing (ls := [.cwSetSrc src, .cwSetPos 0, .cwSetRem len, .setPhase .cwWait]) rfl
    (cwWait_runsWithin rest)

theorem descLength_runsWithin {n : Nat} {ls : List Line} (i : Nat) (rest : RunsWithin n ls) :
    RunsWithin (n + 870) (.descLength i [] :: ls) :=
  .cons (by simp) fun s => .cons (by simp) fun s => ctrlFifoWrite_runsWithin _ _ rest

theorem configureCode_putsNothing (p : Params) (e : EpNum) :
    (configureCode p e).all putsNothing = true ∧ (configureCode p e).length ≤ 3 := by
  unfold configureCode
  split
  · split <;> exact ⟨rfl, by simp⟩
  · exact ⟨rfl, by simp⟩

/-- A handler's body puts nothing in front, or it is GET_DESCRIPTOR's of an entry, or GET_REPORT's. -/
theorem handlerBody_runsWithin {n : Nat} {ls : List Line} (r : Request) (p : Params) (got : List Byte)
    (rest : RunsWithin n ls) : RunsWithin (n + 870) (handlerBody p r got ++ ls) := by
  have short {body : List Line} (own : body.all putsNothing = true) (few : body.length ≤ 20) :
      RunsWithin (n + 870) (body ++ ls) := (RunsWithin.putsNothing own rest).mono (by omega)
  cases r
  case setConfiguration =>
    obtain ⟨own1, few1⟩ := configureCode_putsNothing p 1
    obtain ⟨own2, few2⟩ := configureCode_putsNothing p 2
    obtain ⟨own3, few3⟩ := configureCode_putsNothing p 3
    obtain ⟨own4, few4⟩ := configureCode_putsNothing p 4
    refine short ?_ ?_
    · simp only [handlerBody, setConfigurationCode, List.all_append, own1, own2, own3, own4]
      rfl
    · simp only [handlerBody, setConfigurationCode, List.length_append, List.length_cons, List.length_nil]
      omega
  case clearFeature =>
    simp only [handlerBody, clearFeatureCode]
    split <;> exact short rfl (by simp)
  case getDescriptor =>
    simp only [handlerBody, getDescriptorCode]
    split
    · exact short rfl (by simp)
    · exact descLength_runsWithin _ rest
  case getReport =>
    have reports := readReports_runsWithin (List.finRange 8) (RunsWithin.putsNothing (ls := [.commit]) rfl rest)
    exact (RunsWithin.putsNothing (ls := [.setPhase .waitReport, .waitTxrdy]) rfl reports).mono (by simp)
  case setAddress | setIdle | fatal => exact short rfl (Nat.le_of_ble_eq_true rfl)

/-- With `k` operand bytes still to read. -/
theorem handlerFrom_runsWithin {n : Nat} {ls : List Line} (r : Request) (rest : RunsWithin n ls) (k : Nat) :
    ∀ (p : Params) (got : List Byte), (operandBytes r).length ≤ got.length + k →
      RunsWithin (n + 870 + k) (handlerFrom p r got ++ ls) := by
  induction k with
  | zero =>
    intro p got all
    rw [handlerFrom, if_neg (by omega)]
    exact handlerBody_runsWithin r p got rest
  | succ k ih =>
    intro p got few
    rw [handlerFrom]
    split
    · exact .cons (by simp) fun s => ih s.params _ (by simp; omega)
    · exact (handlerBody_runsWithin r p got rest).mono (by omega)

/-- A request takes at most 900 lines, wherever it stops. -/
theorem dispatchCode_runsWithin (p : Params) (r : Request) : RunsWithin 900 (dispatchCode p r) := by
  have operands : (operandBytes r).length ≤ 8 := by cases r <;> decide
  have close : RunsWithin 1 [.setPhase .idle] := RunsWithin.putsNothing (ls := [.setPhase .idle]) rfl .nil
  rw [dispatchCode, requestCode]
  split
  · have handler := handlerFrom_runsWithin r .nil 8 p [] (by simpa using operands)
    rw [List.append_nil] at handler
    exact handler.mono (by decide)
  · exact (handlerFrom_runsWithin r close 8 p [] (by simpa using operands)).mono (by decide)

/-! ## The parts of EP_ISR -/

/-- A run to its end is one in front of any lines. -/
theorem linesLead_of_end {m : Nat} {ls : List Line} {s t : State} (h : runLines m ls s = (t, [])) (rest : List Line) :
    ∃ k, k ≤ m ∧ LinesLead k (ls ++ rest) s rest t := by
  induction m generalizing ls s with
  | zero =>
    cases h
    exact ⟨0, Nat.le_refl _, fun n => by rw [Nat.zero_add]; rfl⟩
  | succ m ih =>
    cases ls with
    | nil =>
      cases h
      exact ⟨0, Nat.zero_le _, fun n => by rw [Nat.zero_add]; rfl⟩
    | cons l ls =>
      unfold runLines at h
      split at h
      case isTrue stopped => cases h
      case isFalse runs =>
        split at h
        case isTrue passed =>
          obtain ⟨k, hk, lead⟩ := ih h
          refine ⟨k + 1, by omega, fun n => ?_⟩
          rw [Nat.add_right_comm, List.cons_append, runLines, if_neg runs, if_pos passed, lead]
        case isFalse steps =>
          obtain ⟨k, hk, lead⟩ := ih h
          refine ⟨k + 1, by omega, fun n => ?_⟩
          rw [Nat.add_right_comm, List.cons_append, runLines, if_neg runs, if_neg steps, ← List.append_assoc, lead]

theorem LinesLead.atIsrPc {k : Nat} {ls ls' : List Line} {s t : State} (h : LinesLead k ls s ls' t) (pc : List Line) :
    LinesLead k ls (s.atIsrPc pc) ls' (t.atIsrPc pc) := fun n => by
  rw [runLines_atIsrPc, runLines_atIsrPc, h]

/-- SETUP_INTAKE comes to its end, not halted. -/
theorem runLines_intake {s : State} (running : s.halted = false) (selected : s.epSel = 0) :
    ∃ t, runLines 19 intakeCode s = (t, []) ∧ t.halted = false := by
  obtain ⟨bs, _, _, reads⟩ := runLines_intakeBytes (List.finRange 8) (s := setPhase .intake s) running selected
  have start := runLines_straight (ls := [.setPhase .intake]) (s := s) rfl running
  have finish := runLines_straight (ls := [.ackSetup, .setPhase .dispatch])
    (s := (setPhase .intake s).tookIn 8 (storeBytes s.req (List.finRange 8) bs)) rfl running
  refine ⟨_, runLines_append_end start (runLines_append_end reads finish), ?_⟩
  simp only [afterLines, List.foldl, lineStep, setPhase_halted, portAckSetup, State.modEp_halted, State.tookIn]
  exact running

/-- DISPATCH reads the key and comes to the handler of its row (R232). -/
theorem linesLead_dispatch {s : State} (running : s.halted = false) :
    LinesLead 2 [.dispatch] s (dispatchCode s.params (dispatchRow s.req.key)) s := by
  have first := LinesLead.line (l := .dispatch) (ls := []) running rfl rfl (by simp)
  have second := LinesLead.line (l := .dispatchOn s.req.bmRequestType) (ls := []) running rfl rfl (by simp)
  rw [lineStep, List.append_nil] at second
  exact first.trans second

/-- The operation a packet decodes to is the handler of its row, with the packet in `req` (30_encoding.md R113). -/
theorem exec_decodeRequest {s : State} (running : s.halted = false) :
    exec (decodeRequest s.req) s = .next (perform (dispatchCode s.params (dispatchRow s.req.key)) s) := by
  have same : withRequest (decodeRequest s.req) s = s := by rw [withRequest, decodeRequest_packet]; rfl
  have whole : exec (decodeRequest s.req) s = .next (runRequest (decodeRequest s.req) (dispatchRow s.req.key) s) := by
    unfold decodeRequest
    cases dispatchRow s.req.key <;> rfl
  rw [whole, runRequest_running running, same]

/-- EP_ISR entered, with endpoint 0 selected. -/
def State.epIsrEntered (s : State) : State := { s with ie := false, ctx := .epIsr, isrPc := [], epSel := 0 }

/-- From its entry EP_ISR comes to SETUP_INTAKE where a packet is there (R230). -/
theorem linesLead_epIsr {s : State} (running : s.halted = false) (pending : s.epPending = true) :
    LinesLead 2 epIsrCode (interruptEntry .epIsr s) (intakeCode ++ [.dispatch]) (s.epIsrEntered.atIsrPc epIsrCode) := by
  have setup : (s.ep 0).rxstp = true := (Bool.and_eq_true_iff.mp pending).1
  have select := LinesLead.line (l := .select 0) (ls := [.setupStatus]) (s := interruptEntry .epIsr s) running rfl rfl
    (by simp)
  have status := LinesLead.line (l := .setupStatus) (ls := []) (s := s.epIsrEntered.atIsrPc epIsrCode) running rfl rfl
    (by simp)
  have rxstp : ((s.epIsrEntered.atIsrPc epIsrCode).ep (s.epIsrEntered.atIsrPc epIsrCode).epSel).rxstp = true := setup
  rw [lineStep, rxstp, if_pos rfl] at status
  exact select.trans status

theorem State.epPending_of_canEnter {s : State} (enter : s.canEnter .epIsr = true) : s.epPending = true := by
  obtain ⟨_, _, _, ⟨dev, _⟩ | ⟨_, ep, _⟩⟩ := State.canEnter_iff.mp enter
  · cases dev
  · exact ep

/-- EP_ISR's lines from its entry are SETUP_INTAKE's, and then the request's, as many as it takes. -/
theorem runLines_epIsr {s taken t : State} {ls : List Line} (running : s.halted = false) (pending : s.epPending = true)
    (intake : runLines 19 intakeCode s.epIsrEntered = (taken, [])) (takenRuns : taken.halted = false)
    (request : runLines lineBound (dispatchCode taken.params (dispatchRow taken.req.key)) taken = (t, ls)) :
    runLines lineBound epIsrCode (interruptEntry .epIsr s) = (t.atIsrPc epIsrCode, ls) := by
  obtain ⟨k, hk, through⟩ := linesLead_of_end intake [.dispatch]
  have lead := (linesLead_epIsr running pending).trans
    ((through.trans (linesLead_dispatch takenRuns)).atIsrPc epIsrCode)
  have within := dispatchCode_runsWithin taken.params (dispatchRow taken.req.key) taken
  have fuel : lineBound = 2 + (k + 2) + (1020 - k) := by rw [lineBound]; omega
  have left := (within (1020 - k) (by omega)).trans (within lineBound (by decide)).symm
  rw [fuel, lead, runLines_atIsrPc, left, request]

/-- Settles O42: the lines of EP_ISR are those of its parts. -/
theorem epIsrServesRequest : Obligations.EpIsrServesRequest := by
  refine ⟨fun s enter => ?served, fun s rest running script hc code selected noSetup => ?early⟩
  case served =>
    have running := State.halted_of_canEnter enter
    have pending := State.epPending_of_canEnter enter
    obtain ⟨taken, intake, takenRuns⟩ := runLines_intake (s := s.epIsrEntered) running rfl
    have entered := runLines_frame 19 intakeCode s.epIsrEntered
    rw [intake] at entered
    obtain ⟨t, ls, request⟩ : ∃ t ls, runLines lineBound (dispatchCode taken.params (dispatchRow taken.req.key)) taken =
      (t, ls) := ⟨_, _, rfl⟩
    have frame := runLines_frame lineBound (dispatchCode taken.params (dispatchRow taken.req.key)) taken
    rw [request] at frame
    have body := runLines_epIsr running pending intake takenRuns request
    have served : perform (dispatchCode taken.params (dispatchRow taken.req.key)) taken = t.atIsrPc ls := by
      rw [perform_parked takenRuns request, State.park_epIsr (frame.ctx.trans entered.ctx),
        frame.isrPc.trans entered.isrPc]
      exact congrArg t.atIsrPc (List.append_nil ls)
    refine ⟨taken, t.atIsrPc ls, ls, ?intake, ?request, rfl, ?whole⟩
    case intake => exact congrArg Host.Outcome.next (perform_done running (runLines_end_mono intake (by decide)))
    case request => exact (exec_decodeRequest takenRuns).trans (congrArg Host.Outcome.next served)
    case whole =>
      refine congrArg Host.Outcome.next ?_
      rcases takeInterrupt_cases .epIsr s with ⟨no, _⟩ | ⟨_, u, ls', run, hend⟩
      · cases enter.symm.trans no
      · obtain ⟨rfl, rfl⟩ := Prod.mk.inj (body.symm.trans run)
        rcases hend with ⟨ended, runs, whole⟩ | ⟨stands, whole⟩ <;> rw [whole]
        · rw [if_pos ⟨ended, runs⟩]
          rfl
        · rw [if_neg fun both => stands.elim (· both.1) fun halted => nomatch both.2.symm.trans halted]
          rfl
  case early =>
    have status : (lineStep .setupStatus s).2 = [] := by rw [lineStep, selected, noSetup]; rfl
    rw [step_of_script_nil script, cpuStep_in_handler (by simp [hc]) running, isrStep_line code rfl, status]
    rfl

end Sys2Proof.Machine
end
